-- ==== Sys2Proof/Word.lean ====
section
/-! DEFINITION. The value types of 00_scope.md R9: every value is unsigned, bits are numbered from 0 at the least
significant bit. -/

namespace Sys2Proof

/-- A `u16` (R9): the accumulator, a table entry, a command word, a response word. -/
abbrev Word := BitVec 16

/-- A `u8` (R9): an input byte, the byte counter, half of a word. -/
abbrev Byte := BitVec 8

/-- A `u4` (R9): a nibble, the index of the table. -/
abbrev Nibble := BitVec 4

end Sys2Proof
end

