-- ==== Sys2Proof/AsmSyntax.lean ====
section
/-! DEFINITION. The statements of the assembler (30_encoding.md R61, R62): the five mnemonics with their operand as
written, the two pseudo-instructions and `.word`. A statement may be ill-formed (an operand out of range);
`WellFormed.lean` says when it is not. -/

namespace Sys2Proof

/-- One assembly statement. Numbers are as written, before any range check. -/
inductive Stmt where
  | clr
  | feed (n : Nat)
  | rdres
  | rdraw
  | rdstat
  /-- `FEEDS "s"` (R62); `s` is the bytes of the string, escapes already read. -/
  | feeds (s : List Byte)
  /-- `CRC "s"` (R62). -/
  | crc (s : List Byte)
  /-- `.word v` (R62): raw data, possibly an illegal word. -/
  | word (v : Nat)
deriving DecidableEq, Repr

/-- Why a line does not assemble (R61: "an assembly error"). The split into kinds is the model's (log 11). -/
inductive AsmError where
  /-- The line's first word is no mnemonic. -/
  | unknownMnemonic
  /-- The operand is missing, or is no integer, character literal or string of the syntax. -/
  | badOperand
  /-- An operand on a mnemonic that takes none. -/
  | unexpectedOperand
  /-- FEED outside 0..255, `.word` outside 0..0xFFFF, or a string of a length the statement does not take. -/
  | outOfRange
deriving DecidableEq, Repr

end Sys2Proof
end

