-- ==== Sys2Proof/Syntax.lean ====
section
/-! DEFINITION. The commands of the block: one constructor per row of spec/opcode_table.json (30_encoding.md R56). -/

namespace Sys2Proof

/-- The five commands. FEED's operand is one unsigned byte (R55); no other command has an operand. -/
inductive Instr where
  /-- CLR, clear and start a frame (41_frame_commands.md R83). -/
  | clr
  /-- FEED b, consume one input byte (41_frame_commands.md R84). -/
  | feed (b : Byte)
  /-- RDRES, read the post-processed result (42_readout_commands.md R87). -/
  | rdres
  /-- RDRAW, read the raw accumulator (42_readout_commands.md R88). -/
  | rdraw
  /-- RDSTAT, read the status word (42_readout_commands.md R89). -/
  | rdstat
deriving DecidableEq, Repr

end Sys2Proof
end

