-- ==== Sys2Proof/WellFormed.lean ====
section
/-! DEFINITION. What a well-formed command and a well-formed assembly statement are. -/

namespace Sys2Proof

/-- A command is well-formed by its type: FEED's operand is a byte (30_encoding.md R55), nothing else has an operand.
The ranges are checked where a number is still a number, in `Stmt.wf`, and where a word is still a word, in the decoder. -/
def Instr.wf : Instr → Bool
  | .clr => true
  | .feed _ => true
  | .rdres => true
  | .rdraw => true
  | .rdstat => true

/-- The ranges of 30_encoding.md R61 and R62: FEED takes 0..255, `FEEDS` a string of 1 to 255 characters, `CRC` one of 0
to 255, `.word` a value up to 0xFFFF. -/
def Stmt.wf : Stmt → Bool
  | .clr => true
  | .feed n => n ≤ 255
  | .rdres => true
  | .rdraw => true
  | .rdstat => true
  | .feeds s => 1 ≤ s.length && s.length ≤ 255
  | .crc s => s.length ≤ 255
  | .word v => v ≤ 0xFFFF

end Sys2Proof
end

