-- ==== Sys2Proof/Decode.lean ====
section
/-! DEFINITION. The decoder of 30_encoding.md R57, total on all 65,536 words, and the encoder beside it, and the table of
R56 they are both held against. The block takes whole 16-bit words (R45, R53), so there is no byte order to decide. -/

namespace Sys2Proof

/-- What a command word decodes to: a command, or `ILLEGAL(w)` (R57), which 60_exceptions.md R92 executes. -/
inductive Decoded where
  | command (i : Instr)
  | illegal (w : Word)
deriving DecidableEq, Repr

/-- `OP`, bits 15:8 of a command word (R54). -/
def opField (w : Word) : Byte := w.extractLsb' 8 8

/-- `D8`, bits 7:0 of a command word (R54). -/
def d8Field (w : Word) : Byte := w.extractLsb' 0 8

/-- The decoder of R57, test by test in its order. -/
def decode (w : Word) : Decoded :=
  if w = 0x0100 then .command .clr
  else if opField w = 0x02 then .command (.feed (d8Field w))
  else if w = 0x1000 then .command .rdres
  else if w = 0x1100 then .command .rdraw
  else if w = 0x1200 then .command .rdstat
  else .illegal w

/-- The encoder of R57: `Encode(FEED(b)) = 0x0200 | zext_16(b)`, the others are constants. -/
def encode : Instr → Word
  | .clr => 0x0100
  | .feed b => 0x0200 ||| b.zeroExtend 16
  | .rdres => 0x1000
  | .rdraw => 0x1100
  | .rdstat => 0x1200

/-- The command a word stands for, where it is legal. -/
def Decoded.instr? : Decoded → Option Instr
  | .command i => some i
  | .illegal _ => none

/-- A row of the opcode map (R56): a word `w` matches it when `w & mask = pattern`. -/
structure OpcodeRow where
  mnemonic : String
  pattern : Word
  mask : Word
deriving DecidableEq, Repr

/-- The word matches the row (R56). -/
def OpcodeRow.accepts (r : OpcodeRow) (w : Word) : Bool := w &&& r.mask == r.pattern

/-- The opcode map of R56 and spec/opcode_table.json. -/
def opcodeTable : List OpcodeRow :=
  [ ⟨"CLR", 0x0100, 0xFFFF⟩, ⟨"FEED", 0x0200, 0xFF00⟩, ⟨"RDRES", 0x1000, 0xFFFF⟩,
    ⟨"RDRAW", 0x1100, 0xFFFF⟩, ⟨"RDSTAT", 0x1200, 0xFFFF⟩ ]

/-- The row of R56 that a command belongs to. -/
def Instr.row : Instr → OpcodeRow
  | .clr => ⟨"CLR", 0x0100, 0xFFFF⟩
  | .feed _ => ⟨"FEED", 0x0200, 0xFF00⟩
  | .rdres => ⟨"RDRES", 0x1000, 0xFFFF⟩
  | .rdraw => ⟨"RDRAW", 0x1100, 0xFFFF⟩
  | .rdstat => ⟨"RDSTAT", 0x1200, 0xFFFF⟩

/-- The command word that a table row's bits stand for: the low `nbits` bits of `w`, the bits above them 0 (log 12). -/
def tableWord (nbits w : Nat) : Word := BitVec.ofNat 16 (w % 2 ^ nbits)

/-- What the decoder reads from an instruction of `nbits` bits. Every command is exactly one 16-bit word (R53), so
anything longer is refused (log 12). -/
def decodeTableWord (nbits w : Nat) : Option Instr :=
  if nbits ≤ 16 then (decode (tableWord nbits w)).instr? else none

end Sys2Proof
end

