-- ==== Sys2Proof/Config.lean ====
section
/-! DEFINITION. What the spec leaves to an implementation: the type of the table's configuration field (10_state.md R22),
the OPEN byte order of the framing layer, and the unknown values at power-up. A constant without a body is a free value:
nothing can evaluate it. -/

namespace Sys2Proof

/-- The nibble table: exactly 16 entries of 16 bits (10_state.md R21). It is a field of `Machine.State` (R14 lists it),
so a claim about every state is a claim about every table; `Machine.defaultTbl` is the default of R22 (log 2). -/
abbrev NibbleTable := Vector Word 16

/-- The order in which a framing layer sends the two result bytes (20_memory.md R44). -/
inductive FrameByteOrder where
  | highFirst
  | lowFirst
deriving DecidableEq, Repr, Inhabited

/-- FRAME_BYTE_ORDER, OPEN in the spec (00_scope.md R7, 92_eei_decisions.md D14): no value (log 10). The block does not
read it. -/
opaque Config.frameByteOrder : FrameByteOrder

/-- ACC before the first reset: unspecified (70_reset_and_hazards.md R113, U3; log 8). -/
opaque Config.powerUpAcc : Word

/-- CNT before the first reset: unspecified (R113; log 8). -/
opaque Config.powerUpCnt : Byte

/-- LOVF before the first reset: unspecified (R113; log 8). -/
opaque Config.powerUpLovf : Bool

/-- ILL before the first reset: unspecified (R113; log 8). -/
opaque Config.powerUpIll : Bool

end Sys2Proof
end

