-- ==== Sys2Proof/Machine/Constants.lean ====
section
/-! DEFINITION. The parameters of 00_scope.md R7 and the default of the table (10_state.md R22). -/

namespace Sys2Proof.Machine

/-- INIT, the accumulator's start value (R7). -/
def init : Word := 0x0000

/-- POLY, x^16 + x^12 + x^5 + 1 (R7), used only to derive the table (R23) and in the bitwise CRC (R77). PRESUMED by the
spec from general knowledge (log 2). -/
def poly : Word := 0x1021

/-- BANNED, the frame delimiters (R7): fixed, not configurable (92_eei_decisions.md D25). -/
def banned : List Byte := [0x0A, 0x0D, 0x28]

/-- FIX_INC (R7). -/
def fixInc : Byte := 1

/-- MAX_LEN, the most bytes of one frame, as a value of the counter (R7, R17). -/
def maxLen : Byte := 255

/-- The default of the configuration field TBL (10_state.md R22): the CRC-16/XModem nibble table. PRESUMED: the spec
supplies it from general knowledge, the source has lost it (log 2). -/
def defaultTbl : NibbleTable :=
  #v[0x0000, 0x1021, 0x2042, 0x3063, 0x4084, 0x50A5, 0x60C6, 0x70E7,
     0x8108, 0x9129, 0xA14A, 0xB16B, 0xC18C, 0xD1AD, 0xE1CE, 0xF1EF]

end Sys2Proof.Machine
end

