-- ==== Sys2Proof/Machine/State.lean ====
section
/-! DEFINITION. The state of the block (10_state.md R14), its two channels and its reset signal (R43, R46, R111), and the
model's bookkeeping: the turns of the run and the two histories (60_exceptions.md R101, 70_reset_and_hazards.md R121). -/

namespace Sys2Proof.Machine

/-- A turn of the run: which agent moves, and what the HOST does in its turn (10_state.md R13: it issues command words,
consumes response words and may assert reset; log 1). -/
inductive Turn where
  /-- The CORE's turn: it applies a waiting reset, or performs the oldest waiting word, or idles. -/
  | core
  /-- A host puts a word on the command channel. -/
  | deliver (w : Word)
  /-- The host consumes the waiting response, if there is one (when none waits: log 20). -/
  | take
  /-- The host asserts reset. -/
  | assertReset
deriving DecidableEq, Repr

/-- The errors of the block (60_exceptions.md R95). They are recorded in flags and stop nothing (R91). -/
inductive BlockError where
  /-- Code 1, IllegalCommand (R92). -/
  | illegalCommand
  /-- Code 2, LengthOverflow (R93). -/
  | lengthOverflow
deriving DecidableEq, Repr

/-- Everything the machine holds. -/
structure State where
  /-- ACC, the accumulator (R15). -/
  acc : Word
  /-- CNT, the bytes accepted since the last CLR or reset (R17). -/
  cnt : Byte
  /-- LOVF, sticky: a FEED was refused because the frame held 255 bytes (R18). -/
  lovf : Bool
  /-- ILL, sticky: an illegal word was received (R18). -/
  ill : Bool
  /-- TBL, the constant ROM (R14, R21). -/
  tbl : NibbleTable
  /-- The command channel: words delivered and not yet performed, oldest first (R46, R111). -/
  cmds : List Word
  /-- The response channel: the word waiting for the host; none when nothing waits (R43, R102). -/
  resp : Option Word
  /-- The host has asserted reset and the block has not applied it yet (R111). -/
  resetReq : Bool
  /-- Bookkeeping: the turns still to come; when there is none the CORE moves (log 1). -/
  sched : List Turn
  /-- Bookkeeping: every error of the run, oldest first; no step clears it (R101). -/
  errLog : List BlockError
  /-- Bookkeeping: every response word of the run, oldest first (R121). -/
  out : List Word
deriving DecidableEq, Repr

/-- No fault: "The block has no trap, no vector, no handler and no halted state" (60_exceptions.md R91). No constructor,
so no step can answer a fault; unsafe only if R91 were false of the hardware (log 16). -/
inductive Fault where
deriving DecidableEq, Repr

/-- Why an instruction would have no meaning. -/
inductive Refusal where
  /-- Raised by `exec` for an instruction that has no meaning yet, of which there is none: no step answers it. Safe. -/
  | notModelled (mnemonic : String)
deriving DecidableEq, Repr

/-- The machine right after reset: R26 for the registers, R111 for the empty channels. The histories are empty, no turn
is planned and no command waits: the block waits for its first command word (log 5, log 6). -/
def State.reset : State where
  acc := 0x0000
  cnt := 0x00
  lovf := false
  ill := false
  tbl := defaultTbl
  cmds := []
  resp := none
  resetReq := false
  sched := []
  errLog := []
  out := []

/-- Power-up, before the first reset (70_reset_and_hazards.md R113): the registers hold free values, TBL its constant. -/
def State.powerUp : State :=
  { State.reset with
    acc := Config.powerUpAcc, cnt := Config.powerUpCnt, lovf := Config.powerUpLovf, ill := Config.powerUpIll }

end Sys2Proof.Machine
end

