-- ==== Sys2Proof/Machine/Operands.lean ====
section
/-! DEFINITION. The fields of operands and results: the nibbles of a byte, the bytes of a word, the top nibble of the
accumulator. All unsigned, none reflected (20_memory.md R42; 00_scope.md R8). -/

namespace Sys2Proof.Machine

/-- `b[7:4]`, processed first (20_memory.md R41; 30_encoding.md R55). -/
def highNibble (b : Byte) : Nibble := b.extractLsb' 4 4

/-- `b[3:0]`, processed second (R41, R55). -/
def lowNibble (b : Byte) : Nibble := b.extractLsb' 0 4

/-- `w[15:8]`, the high byte of a result (40_datapath.md R72). -/
def highByte (w : Word) : Byte := w.extractLsb' 8 8

/-- `w[7:0]`, the low byte of a result (R72). -/
def lowByte (w : Word) : Byte := w.extractLsb' 0 8

/-- `{h, l}` = `(h << 8) | l` as a `u16`: the high byte in bits 15:8 (00_scope.md R10; 20_memory.md R43). -/
def joinBytes (h l : Byte) : Word := (h.zeroExtend 16 <<< 8) ||| l.zeroExtend 16

/-- `da = acc[15:12]`, the index taken before the shift (40_datapath.md R67). -/
def topNibble (acc : Word) : Nibble := acc.extractLsb' 12 4

/-- `TBL[i]`: every index 0..15 is in range, so a read cannot fail (10_state.md R21). -/
def tblRead (t : NibbleTable) (i : Nibble) : Word := t[i.toNat]'(BitVec.isLt i)

end Sys2Proof.Machine
end

