-- ==== Sys2Proof/Machine/Datapath.lean ====
section
/-! DEFINITION. The checksum datapath and the reference function (40_datapath.md): pure functions over any table, and the
two forms of the CRC the default table is derived from (10_state.md R23; 40_datapath.md R77). -/

namespace Sys2Proof.Machine

/-- NibStep, one nibble update (R67): the index is taken before the shift, the shift discards bits 15:12 (R68). -/
def nibStep (t : NibbleTable) (acc : Word) (n : Nibble) : Word :=
  (acc <<< 4) ^^^ tblRead t (topNibble acc ^^^ n)

/-- ByteStep, high nibble first, then low nibble (R69). -/
def byteStep (t : NibbleTable) (acc : Word) (b : Byte) : Word :=
  nibStep t (nibStep t acc (highNibble b)) (lowNibble b)

/-- Fold, the bytes in order (R70; 20_memory.md R40). -/
def fold (t : NibbleTable) : Word → List Byte → Word
  | acc, [] => acc
  | acc, b :: s => fold t (byteStep t acc b) s

/-- Raw, the raw CRC of a sequence (R70). -/
def raw (t : NibbleTable) (s : List Byte) : Word := fold t init s

/-- Fix8, the fixup of one byte (R71). The addition never carries out of 8 bits (R75). -/
def fix8 (x : Byte) : Byte := if x ∈ banned then x + fixInc else x

/-- Fix16, the fixup of each byte on its own (R72, R73). -/
def fix16 (a : Word) : Word := joinBytes (fix8 (highByte a)) (fix8 (lowByte a))

/-- InvalidLength, code 3 (60_exceptions.md R94): the requested length and the available size are recorded. An error of
the reference function only; no command word can raise it. -/
structure InvalidLength where
  length : Byte
  available : Nat
deriving DecidableEq, Repr

/-- The code of InvalidLength (60_exceptions.md R95). -/
def InvalidLength.code (_ : InvalidLength) : Nat := 3

/-- CrcRef, the reference function (R78): the error where the length exceeds the bytes, else the first `length` bytes
folded from INIT and fixed up. It reads no byte after them, and none at all on the error (60_exceptions.md R101: a value
of the result type). -/
def crcRef (t : NibbleTable) (bytes : List Byte) (length : Byte) : Except InvalidLength Word :=
  if bytes.length < length.toNat then .error ⟨length, bytes.length⟩
  else .ok (fix16 (fold t init (bytes.take length.toNat)))

/-- One bit of the MSB-first CRC with POLY (R23, R77). -/
def bitShift (c : Word) : Word := if c.getLsbD 15 then (c <<< 1) ^^^ poly else c <<< 1

/-- `k` bits of it. -/
def bitShifts : Nat → Word → Word
  | 0, c => c
  | k + 1, c => bitShifts k (bitShift c)

/-- TBL[i] as R23 derives it: the nibble in bits 15:12, shifted through four steps. -/
def derivedEntry (i : Nibble) : Word := bitShifts 4 (i.zeroExtend 16 <<< 12)

/-- The carry-less product of `i` and POLY (R23): the XOR of POLY shifted by each set bit of `i`. -/
def carrylessEntry (i : Nibble) : Word :=
  (if i.getLsbD 0 then poly else 0) ^^^ (if i.getLsbD 1 then poly <<< 1 else 0) ^^^
    (if i.getLsbD 2 then poly <<< 2 else 0) ^^^ (if i.getLsbD 3 then poly <<< 3 else 0)

/-- One byte of the bitwise CRC-16/XModem (R77). -/
def bitwiseByte (c : Word) (b : Byte) : Word := bitShifts 8 (c ^^^ (b.zeroExtend 16 <<< 8))

/-- The bitwise CRC-16/XModem of a sequence (R77): not the block's definition, which is `raw`. -/
def bitwiseCrc (s : List Byte) : Word := s.foldl bitwiseByte 0x0000

end Sys2Proof.Machine
end

