-- ==== Sys2Proof/Machine/Flags.lean ====
section
/-! DEFINITION. The two sticky flags and the STATUS view made from them (10_state.md R18, R19). -/

namespace Sys2Proof.Machine

/-- A flag as a number, 0 or 1. -/
def flagBit (f : Bool) : Byte := if f then 1 else 0

/-- STATUS = {CNT, 0b000000, ILL, LOVF} (R19). A view, not a register (R14). -/
def statusWord (s : State) : Word := joinBytes s.cnt ((flagBit s.ill <<< 1) ||| flagBit s.lovf)

/-- Set the sticky flag that an error names (60_exceptions.md R95); a set flag stays set (R99). -/
def setErrorFlag (e : BlockError) (s : State) : State :=
  match e with
  | .illegalCommand => { s with ill := true }
  | .lengthOverflow => { s with lovf := true }

/-- The code of an error (R95): a name in the model, never output. -/
def BlockError.code : BlockError → Nat
  | .illegalCommand => 1
  | .lengthOverflow => 2

/-- Clear both flags: CLR and reset only (R18, R99). -/
def clearFlags (s : State) : State := { s with lovf := false, ill := false }

end Sys2Proof.Machine
end

