-- ==== Sys2Proof/Machine/Ops.lean ====
section
/-! DEFINITION. The named operations on the state: the response, the one operation by which every error is raised, the
start of a frame, the acceptance of a byte, reset, and the channels' moves. -/

namespace Sys2Proof.Machine

/-- `respond(v)`: place `v` on the response channel (00_scope.md R10; 20_memory.md R43), and in the run's observation
(70_reset_and_hazards.md R121). -/
def respond (v : Word) (s : State) : State := { s with resp := some v, out := s.out ++ [v] }

/-- `raise E()`: set the flag `E` names and do nothing else (60_exceptions.md R91, R98); the event goes into the history
(R101). The block's only way of taking an error: there is no trap to enter and none to return from (R99). -/
def raiseError (e : BlockError) (s : State) : State := { setErrorFlag e s with errLog := s.errLog ++ [e] }

/-- The start of a frame: the registers of CLR (41_frame_commands.md R83) and of reset (10_state.md R26). -/
def startFrame (s : State) : State := { clearFlags s with acc := init, cnt := 0x00 }

/-- FEED's accepting path (R84): both nibble steps and the count, together (10_state.md R24). -/
def acceptByte (b : Byte) (s : State) : State := { s with acc := byteStep s.tbl s.acc b, cnt := s.cnt + 1 }

/-- Reset (70_reset_and_hazards.md R111): the registers of R26, both channels emptied, TBL unchanged. The request is spent
(log 7). -/
def applyReset (s : State) : State := { startFrame s with cmds := [], resp := none, resetReq := false }

/-- The host delivers a word: it waits behind the words already there (20_memory.md R46). -/
def deliverWord (w : Word) (s : State) : State := { s with cmds := s.cmds ++ [w] }

/-- The host consumes the waiting response, if there is one (10_state.md R13). DESIGN CHOICE (log 20): with no response
waiting the turn passes and changes nothing, and the host's later turns go on; 70_reset_and_hazards.md R118 says of such a
host only that it waits for ever. -/
def takeResponse (s : State) : State := { s with resp := none }

/-- The host asserts reset; the block applies it in its next turn (R111). -/
def requestReset (s : State) : State := { s with resetReq := true }

/-- The oldest waiting word and the state without it. A response never waits for long: the host has consumed the one
before by the time the block takes the next word (60_exceptions.md R102, 92_eei_decisions.md D28; log 3). -/
def nextCommand (s : State) : Option (Word × State) :=
  match s.cmds with
  | [] => none
  | w :: ws => some (w, { s with cmds := ws, resp := none })

/-- The next turn of the run and the state without it; with none planned the CORE moves (log 1). -/
def nextTurn (s : State) : Turn × State :=
  match s.sched with
  | [] => (.core, s)
  | t :: ts => (t, { s with sched := ts })

/-- An illegal word (60_exceptions.md R92): IllegalCommand, whatever the word; it is not kept. -/
def execIllegal (_ : Word) (s : State) : Host.Outcome State Fault Refusal := .next (raiseError .illegalCommand s)

/-- The word `w` placed where the block takes its next command from, with the CORE to move and no reset waiting. -/
def placeCommand (w : Word) (s : State) : State :=
  { s with cmds := w :: s.cmds, sched := .core :: s.sched, resetReq := false }

end Sys2Proof.Machine
end

