-- ==== Sys2Proof/Machine/FrameCommands.lean ====
section
/-! DEFINITION. The frame commands CLR and FEED (41_frame_commands.md). -/

namespace Sys2Proof.Machine

/-- CLR (R83). -/
def execClr (s : State) : Host.Outcome State Fault Refusal := .next (startFrame s)

/-- FEED b (R84): refused with LengthOverflow at CNT = 255 (60_exceptions.md R93), else the byte is consumed. The flags
are not looked at. -/
def execFeed (b : Byte) (s : State) : Host.Outcome State Fault Refusal :=
  if s.cnt = maxLen then .next (raiseError .lengthOverflow s) else .next (acceptByte b s)

end Sys2Proof.Machine
end

