-- ==== Sys2Proof/Machine/ReadoutCommands.lean ====
section
/-! DEFINITION. The read-out commands RDRES, RDRAW and RDSTAT (42_readout_commands.md). A read answers whatever the flags
hold (92_eei_decisions.md D17) and changes no register. -/

namespace Sys2Proof.Machine

/-- RDRES (R87): the fixup is computed at read time and not written back (92_eei_decisions.md D27). -/
def execRdres (s : State) : Host.Outcome State Fault Refusal := .next (respond (fix16 s.acc) s)

/-- RDRAW (R88). -/
def execRdraw (s : State) : Host.Outcome State Fault Refusal := .next (respond s.acc s)

/-- RDSTAT (R89). -/
def execRdstat (s : State) : Host.Outcome State Fault Refusal := .next (respond (statusWord s) s)

end Sys2Proof.Machine
end

