-- ==== Sys2Proof/Machine/Dispatch.lean ====
section
/-! DEFINITION. One arm per constructor of Instr. -/

namespace Sys2Proof.Machine

/-- The meaning of a command. -/
def exec (i : Instr) (s : State) : Host.Outcome State Fault Refusal :=
  match i with
  | .clr => Sys2Proof.Machine.execClr s
  | .feed b => Sys2Proof.Machine.execFeed b s
  | .rdres => Sys2Proof.Machine.execRdres s
  | .rdraw => Sys2Proof.Machine.execRdraw s
  | .rdstat => Sys2Proof.Machine.execRdstat s

end Sys2Proof.Machine
end

