-- ==== Sys2Proof/Machine/Agents.lean ====
section
/-! DEFINITION. What each agent does in its turn (10_state.md R13). -/

namespace Sys2Proof.Machine

/-- Perform one command word: the decode comes first (60_exceptions.md R97). -/
def perform (w : Word) (s : State) : Host.Outcome State Fault Refusal :=
  match decode w with
  | .command i => exec i s
  | .illegal v => execIllegal v s

/-- The CORE's turn: a waiting reset takes precedence over any waiting command (R97; 70_reset_and_hazards.md R111); with
nothing waiting the block idles and holds its state (60_exceptions.md R108; log 9). -/
def coreTurn (s : State) : Host.Outcome State Fault Refusal :=
  if s.resetReq then .next (applyReset s)
  else
    match nextCommand s with
    | none => .next s
    | some (w, s') => perform w s'

/-- One turn, of whichever agent it is. -/
def takeTurn (t : Turn) (s : State) : Host.Outcome State Fault Refusal :=
  match t with
  | .core => coreTurn s
  | .deliver w => .next (deliverWord w s)
  | .take => .next (takeResponse s)
  | .assertReset => .next (requestReset s)

end Sys2Proof.Machine
end

