-- ==== Sys2Proof/Machine/Step.lean ====
section
/-! DEFINITION. One step of the run: the next turn, taken. -/

namespace Sys2Proof.Machine

/-- One step. A command is one atomic step (00_scope.md R11; 20_memory.md R46). -/
def step (s : State) : Host.Outcome State Fault Refusal := takeTurn (nextTurn s).1 (nextTurn s).2

/-- `s` with that word delivered where the block takes its next command from, so that the very next step performs it
(log 6, log 12). -/
def State.withFetchWord (s : State) (nbits w : Nat) : State := placeCommand (tableWord nbits w) s

end Sys2Proof.Machine
end

