-- ==== Sys2Proof/Machine/Assembler.lean ====
section
/-! DEFINITION. The assembler of 30_encoding.md R61 and the expansions of R62. Text is a list of character codes. What the
rules do not settle (what ends a line, white space, empty lines, that a blank must stand before an operand, which number forms `.word` takes, a `;` inside
quotes, which bytes `\xHH` may stand for) is in log 11. -/

namespace Sys2Proof.Machine

/-- The words a statement stands for (R61, R62). -/
def expand : Stmt → List Word
  | .clr => [encode .clr]
  | .feed n => [encode (.feed (BitVec.ofNat 8 n))]
  | .rdres => [encode .rdres]
  | .rdraw => [encode .rdraw]
  | .rdstat => [encode .rdstat]
  | .feeds s => s.map fun b => encode (.feed b)
  | .crc s => encode .clr :: ((s.map fun b => encode (.feed b)) ++ [encode .rdres])
  | .word v => [BitVec.ofNat 16 v]

/-- The character codes of a string. -/
def codes (s : String) : List Nat := s.toList.map Char.toNat

/-- Space, tab or carriage return (log 11). -/
def isBlank (c : Nat) : Bool := c == 0x20 || c == 0x09 || c == 0x0D

/-- A list without the blanks at its two ends. -/
def trimBlanks (l : List Nat) : List Nat := ((l.dropWhile isBlank).reverse.dropWhile isBlank).reverse

/-- The lines of a text: "One command per line" (R61). DESIGN CHOICE (log 11), where the rules do not say what ends a line:
a line feed (0x0A) does and nothing else, and the text is split before quotes are looked at, so a line feed as it is can
stand in no string or character literal. -/
def splitLines : List Nat → List (List Nat)
  | [] => [[]]
  | c :: r =>
    if c = 0x0A then [] :: splitLines r
    else
      match splitLines r with
      | [] => [[c]]
      | l :: ls => (c :: l) :: ls

/-- After an apostrophe: one character and a second apostrophe (0x27) follow, so it opens a character literal. -/
def closesLiteral : List Nat → Bool
  | _ :: e :: _ => e == 0x27
  | _ => false

/-- A line without its comment (R61): a `;` (0x3B) outside quotes starts one. `skip` counts characters to pass over (the
rest of a character literal, or what a backslash, 0x5C, escapes); `inString` says whether a string (0x22) is open. -/
def stripComment : Nat → Bool → List Nat → List Nat
  | _, _, [] => []
  | k + 1, inString, c :: r => c :: stripComment k inString r
  | 0, true, c :: r => if c = 0x5C then c :: stripComment 1 true r else c :: stripComment 0 (c != 0x22) r
  | 0, false, c :: r =>
    if c = 0x3B then []
    else if c = 0x27 ∧ closesLiteral r then c :: stripComment 2 false r
    else c :: stripComment 0 (c == 0x22) r

/-- The value of a digit character: 0-9, a-f, A-F. -/
def digitValue (c : Nat) : Option Nat :=
  if 0x30 ≤ c ∧ c ≤ 0x39 then some (c - 0x30)
  else if 0x61 ≤ c ∧ c ≤ 0x66 then some (c - 0x61 + 10)
  else if 0x41 ≤ c ∧ c ≤ 0x46 then some (c - 0x41 + 10)
  else none

/-- The number whose digits are given, after the value of the digits read before. -/
def parseDigits (base : Nat) : Nat → List Nat → Option Nat
  | v, [] => some v
  | v, c :: r =>
    match digitValue c with
    | none => none
    | some d => if d < base then parseDigits base (v * base + d) r else none

/-- An integer, decimal, `0x` hexadecimal or `0b` binary (R61). -/
def parseInteger : List Nat → Option Nat
  | [] => none
  | 0x30 :: 0x78 :: d :: r => parseDigits 16 0 (d :: r)
  | 0x30 :: 0x62 :: d :: r => parseDigits 2 0 (d :: r)
  | d :: r => parseDigits 10 0 (d :: r)

/-- FEED's operand: an integer, or a character literal that stands for its ASCII code (R61). -/
def parseFeedOperand (l : List Nat) : Option Nat :=
  match l with
  | [a, c, z] => if a = 0x27 ∧ z = 0x27 then (if c < 128 then some c else none) else parseInteger l
  | _ => parseInteger l

/-- The bytes of a string after its opening quote: ASCII characters and the escapes of R62. The closing quote ends it and
nothing may follow. DESIGN CHOICE (log 11), where R62 gives the escape `\xHH` and the words "ASCII string" without saying
whether HH may be above 0x7F: every HH from 00 to FF is taken and stands for that byte, so an escape can feed a byte that
is no ASCII code, and each escape counts as one character of the string's length. A character written as it is must be
ASCII. -/
def parseString : List Nat → Option (List Byte)
  | [] => none
  | c :: r =>
    if c = 0x22 then (if r = [] then some [] else none)
    else if c = 0x5C then
      match r with
      | 0x72 :: r' => (parseString r').map (0x0D :: ·)
      | 0x6E :: r' => (parseString r').map (0x0A :: ·)
      | 0x78 :: h :: l :: r' =>
        match parseDigits 16 0 [h, l] with
        | some v => (parseString r').map (BitVec.ofNat 8 v :: ·)
        | none => none
      | _ => none
    else if c < 128 then (parseString r).map (BitVec.ofNat 8 c :: ·)
    else none

/-- A quoted string operand. -/
def parseQuoted : List Nat → Option (List Byte)
  | [] => none
  | c :: r => if c = 0x22 then parseString r else none

/-- A statement that takes no operand. -/
def bareStmt (st : Stmt) (operand : List Nat) : Except AsmError Stmt :=
  if operand = [] then .ok st else .error .unexpectedOperand

/-- A statement from its operand, where the operand could be read. -/
def operandStmt {α : Type} (f : α → Stmt) : Option α → Except AsmError Stmt
  | none => .error .badOperand
  | some a => if (f a).wf then .ok (f a) else .error .outOfRange

/-- A statement from a line's mnemonic and operand; mnemonics are upper case (R61). -/
def parseStmt (mnemonic operand : List Nat) : Except AsmError Stmt :=
  if mnemonic = codes "CLR" then bareStmt .clr operand
  else if mnemonic = codes "FEED" then operandStmt .feed (parseFeedOperand operand)
  else if mnemonic = codes "RDRES" then bareStmt .rdres operand
  else if mnemonic = codes "RDRAW" then bareStmt .rdraw operand
  else if mnemonic = codes "RDSTAT" then bareStmt .rdstat operand
  else if mnemonic = codes "FEEDS" then operandStmt .feeds (parseQuoted operand)
  else if mnemonic = codes "CRC" then operandStmt .crc (parseQuoted operand)
  else if mnemonic = codes ".word" then operandStmt .word (parseInteger operand)
  else .error .unknownMnemonic

/-- The statement of a line, none for a line that holds nothing but blanks and a comment. DESIGN CHOICE (log 11), twice,
where the rules are silent: an empty or all-blank line is no error and assembles to no words; and the mnemonic ends at the
first blank, so a blank is REQUIRED between it and an operand, and `FEED'Q'` or `FEEDS"s"` is an unknown mnemonic. -/
def parseLine (line : List Nat) : Except AsmError (Option Stmt) :=
  match trimBlanks (stripComment 0 false line) with
  | [] => .ok none
  | l =>
    match parseStmt (l.takeWhile fun c => !isBlank c) (trimBlanks (l.dropWhile fun c => !isBlank c)) with
    | .ok st => .ok (some st)
    | .error e => .error e

/-- The words of the lines, or the first error. -/
def assembleLines : List (List Nat) → Except AsmError (List Word)
  | [] => .ok []
  | l :: ls =>
    match parseLine l with
    | .error e => .error e
    | .ok st =>
      match assembleLines ls with
      | .error e => .error e
      | .ok ws => .ok ((st.map expand).getD [] ++ ws)

/-- The assembler (R61): the command words of a text. -/
def assemble (text : List Nat) : Except AsmError (List Word) := assembleLines (splitLines text)

end Sys2Proof.Machine
end

