-- ==== Sys2Proof/Machine/Framing.lean ====
section
/-! DEFINITION. How a host uses the result: the two bytes of it, and the check of a received frame
(42_readout_commands.md R90; 20_memory.md R44). The framing layer itself is out of scope (00_scope.md R6). -/

namespace Sys2Proof.Machine

/-- The two result bytes in the order they are sent; the order is the framing layer's parameter (R44). -/
def wireBytes (o : FrameByteOrder) (res : Word) : List Byte :=
  match o with
  | .highFirst => [highByte res, lowByte res]
  | .lowFirst => [lowByte res, highByte res]

/-- What the framing layer sends: its order is OPEN, so this is known only up to that order (log 10). -/
def sentBytes (res : Word) : List Byte := wireBytes Config.frameByteOrder res

/-- The check of R90: the result over the payload against `{h, l}`. DESIGN CHOICE (log 19): it is `raw` over all the
bytes, with no bound on their number and no look at STATUS, where R90 does not say what the check answers for a payload
over 255 bytes or a frame that is not clean; there it can differ from what the block's RDRES answers. -/
def payloadAccepted (t : NibbleTable) (payload : List Byte) (h l : Byte) : Bool :=
  fix16 (raw t payload) == joinBytes h l

/-- The residue that R90 warns of: what ACC holds when the two bytes are fed after the payload. DESIGN CHOICE (log 19): as
above, over all the bytes, where payload and the two bytes may exceed the 255 that a frame of the block holds. -/
def residue (t : NibbleTable) (payload : List Byte) (h l : Byte) : Word := raw t (payload ++ [h, l])

end Sys2Proof.Machine
end

