-- ==== Sys2Proof/Machine/Replicas.lean ====
section
/-! DEFINITION. Several blocks in one system (60_exceptions.md R106): each has its own state and channels, they share only
the table, which is replicated (log 14). -/

namespace Sys2Proof.Machine

/-- A step of block `k` of a system; a system without a block `k` stays as it is. -/
def replicaStep : Nat → List State → Host.Outcome (List State) Fault Refusal
  | _, [] => .next []
  | 0, s :: ss =>
    match step s with
    | .next s' => .next (s' :: ss)
    | .fault r => .fault r
    | .refused r => .refused r
  | k + 1, s :: ss =>
    match replicaStep k ss with
    | .next ss' => .next (s :: ss')
    | .fault r => .fault r
    | .refused r => .refused r

/-- Steps of a system in the order of `ks`: any order of the blocks is a run. -/
def replicaRun : List Nat → List State → Host.Outcome (List State) Fault Refusal
  | [], ss => .next ss
  | k :: ks, ss =>
    match replicaStep k ss with
    | .next ss' => replicaRun ks ss'
    | .fault r => .fault r
    | .refused r => .refused r

/-- The blocks of a system hold the same table (R106). -/
def sharesTable (t : NibbleTable) (ss : List State) : Bool := ss.all fun s => s.tbl == t

end Sys2Proof.Machine
end

