-- ==== Sys2Proof/Machine/Runs.lean ====
section
/-! DEFINITION. The words in which claims about runs are made (70_reset_and_hazards.md R121): what a list of command words
feeds, what a schedule delivers, when a run has ended and what is observed of it. -/

namespace Sys2Proof.Machine

/-- `k` steps of the machine (`Host.Core.run`), stopping at the first fault or refusal. -/
def runSteps (k : Nat) (s : State) : Host.Outcome State Fault Refusal := Sys2Proof.core.run k s

/-- The byte a word feeds, where it is a FEED. -/
def fedByte? (w : Word) : Option Byte :=
  match decode w with
  | .command (.feed b) => some b
  | .command .clr => none
  | .command .rdres => none
  | .command .rdraw => none
  | .command .rdstat => none
  | .illegal _ => none

/-- The bytes that the words feed, in order. -/
def fedBytes (ws : List Word) : List Byte := ws.filterMap fedByte?

/-- The word is illegal (30_encoding.md R58). -/
def isIllegal (w : Word) : Bool := (decode w).instr?.isNone

/-- The word is CLR. -/
def isClr (w : Word) : Bool := decode w == .command .clr

/-- The words of a frame's FEEDs. -/
def feedWords (s : List Byte) : List Word := s.map fun b => encode (.feed b)

/-- The bytes of the current frame after the words, when `fed` are its bytes before them: CLR empties it, a FEED adds its
byte unless the frame is full (41_frame_commands.md R83, R84). -/
def frameAfter : List Byte → List Word → List Byte
  | fed, [] => fed
  | fed, w :: ws =>
    frameAfter
      (if isClr w then [] else
        match fedByte? w with
        | none => fed
        | some b => if fed.length < 255 then fed ++ [b] else fed) ws

/-- The words after the last CLR; all of them when there is none. -/
def sinceClr : List Word → List Word
  | [] => []
  | w :: ws => if ws.any isClr then sinceClr ws else if isClr w then ws else w :: ws

/-- The words that the turns deliver, in order. -/
def deliveredWords : List Turn → List Word
  | [] => []
  | .deliver w :: ts => w :: deliveredWords ts
  | .core :: ts => deliveredWords ts
  | .take :: ts => deliveredWords ts
  | .assertReset :: ts => deliveredWords ts

/-- `m` is an interleaving of `a` and `b`, each kept in its own order (20_memory.md R48). -/
def isMerge (a b : List Word) : List Word → Bool
  | [] => a.isEmpty && b.isEmpty
  | m :: ms =>
    (match a with
      | [] => false
      | x :: a' => x == m && isMerge a' b ms) ||
    (match b with
      | [] => false
      | y :: b' => y == m && isMerge a b' ms)

/-- What is observed of a run (R121): the response words, the registers and the error log. -/
structure Observation where
  out : List Word
  acc : Word
  cnt : Byte
  lovf : Bool
  ill : Bool
  errLog : List BlockError
deriving DecidableEq, Repr

/-- The observation of a run that has reached `s`. -/
def observe (s : State) : Observation := ⟨s.out, s.acc, s.cnt, s.lovf, s.ill, s.errLog⟩

/-- The run has ended. R121 ends a run when the host has delivered its last word and the block has performed it. DESIGN
CHOICE (log 18), in two ways: every planned turn must be taken and no reset may wait as well, so a reset after the last
word is applied before the run counts as ended, where R121 leaves such a reset open; and no word waiting is enough, so a
word that a reset discarded before it was performed (R111) counts as done, where R121 speaks of a performed word. -/
def finished (s : State) : Bool := s.sched.isEmpty && s.cmds.isEmpty && !s.resetReq

end Sys2Proof.Machine
end

