-- ==== Sys2Proof/Safety.lean ====
section
/-! DEFINITION. The predicates that claims use: the launch premise of a frame, a clean frame, a run without an error, and
the invariant of the machine. -/

namespace Sys2Proof.Machine

/-- FrameStart (70_reset_and_hazards.md R114): the registers at their start values and no response word waiting. -/
def State.FrameStart (s : State) : Prop :=
  s.acc = 0x0000 ∧ s.cnt = 0 ∧ s.lovf = false ∧ s.ill = false ∧ s.resp = none

/-- A frame is clean when STATUS[1:0] = 0b00 (60_exceptions.md R98). -/
def State.Clean (s : State) : Prop := (statusWord s).extractLsb' 0 2 = 0#2

/-- The words alone are what the CORE has before it: they wait on the command channel, no turn is planned and no reset is
requested. -/
def State.Loaded (s : State) (ws : List Word) : Prop := s.cmds = ws ∧ s.sched = [] ∧ s.resetReq = false

/-- No error occurred between two states of a run (60_exceptions.md R101). -/
def ErrorFree (s s' : State) : Prop := s'.errLog = s.errLog

/-- What every step keeps: LOVF is set only on a full frame (R93); a set flag has its error in the history (R101); an
empty frame has the start value (R83, R84); a waiting response is the last of the run's responses (R43). -/
structure State.Inv (s : State) : Prop where
  lovf_full : s.lovf = true → s.cnt = 255
  lovf_logged : s.lovf = true → BlockError.lengthOverflow ∈ s.errLog
  ill_logged : s.ill = true → BlockError.illegalCommand ∈ s.errLog
  empty_start : s.cnt = 0 → s.acc = 0x0000
  resp_last : ∀ v, s.resp = some v → s.out.getLast? = some v

end Sys2Proof.Machine
end

