-- ==== Sys2Proof/Certificates/Slice0/Obligations.lean ====
section
/-! DEFINITION. The statements about the model, from the numbered rules of spec/. A clause that needs the default table
(`defaultTbl`) rests on what the spec took from general knowledge (log 2); a clause about `sched`, `resetReq`, `errLog`
or `out` is also about the model's bookkeeping (log 1, 3, 5, 7). -/

open Sys2Proof Sys2Proof.Machine

/-! ## Encoding -/

/-- R56: the five rows; a legal word matches the row of its command and no other; a word that matches a row is legal. -/
def Obligations.OpcodeMapAgreesWithTheDecoder : Prop :=
  opcodeTable.map (fun r => (r.mnemonic, r.pattern, r.mask)) =
    [("CLR", 0x0100#16, 0xFFFF#16), ("FEED", 0x0200#16, 0xFF00#16), ("RDRES", 0x1000#16, 0xFFFF#16),
      ("RDRAW", 0x1100#16, 0xFFFF#16), ("RDSTAT", 0x1200#16, 0xFFFF#16)] ∧
  (∀ (w : Word) (i : Instr), decode w = .command i → i.row ∈ opcodeTable ∧ w &&& i.row.mask = i.row.pattern) ∧
  (∀ (w : Word) (r : OpcodeRow), r ∈ opcodeTable → w &&& r.mask = r.pattern →
    ∃ i, decode w = .command i ∧ i.row = r) ∧
  (∀ (w : Word) (b : Byte), decode w = .command (.feed b) → b = w.extractLsb' 0 8) ∧
  (∀ (w : Word) (r r' : OpcodeRow), r ∈ opcodeTable → r' ∈ opcodeTable →
    w &&& r.mask = r.pattern → w &&& r'.mask = r'.pattern → r = r')

/-- `Decode(Encode(c)) = c` for every command, with every operand (30_encoding.md, section 3). -/
def Obligations.DecodeOfEncodeIsTheCommand : Prop :=
  ∀ i : Instr, decode (encode i) = .command i

/-- `Encode(Decode(w)) = w` for every legal word (30_encoding.md, section 3). -/
def Obligations.EncodeOfDecodeIsTheWord : Prop :=
  ∀ (w : Word) (i : Instr), decode w = .command i → encode i = w

/-- R58: which words are illegal, how many, and that each is treated like every other. -/
def Obligations.IllegalWordsAreExactlyTheRest : Prop :=
  (∀ w : Word, decode w = .illegal w ↔
    (w.extractLsb' 8 8 ∉ [0x01#8, 0x02#8, 0x10#8, 0x11#8, 0x12#8] ∨
      (w.extractLsb' 8 8 ∈ [0x01#8, 0x10#8, 0x11#8, 0x12#8] ∧ w.extractLsb' 0 8 ≠ 0x00#8))) ∧
  (∀ (w : Word), (∃ i, decode w = .command i) ∨ decode w = .illegal w) ∧
  (∃ legal : List Word, legal.Nodup ∧ legal.length = 260 ∧ 2 ^ 16 - legal.length = 65276 ∧
    ∀ w, w ∈ legal ↔ ∃ i, decode w = .command i) ∧
  (∀ (v w : Word) (s : State), decode v = .illegal v → decode w = .illegal w → perform v s = perform w s)

/-- R59: 0x0000 is illegal, every word is a command or illegal, and none executes as a no-op: performing it changes
something in some state. -/
def Obligations.NoWordIsANop : Prop :=
  decode 0x0000 = .illegal 0x0000 ∧
  (∀ w : Word, (∃ i, decode w = .command i) ∨ decode w = .illegal w) ∧
  (∀ w : Word, ∃ s s' : State, perform w s = .next s' ∧ s' ≠ s)

/-- A few words written out from the encodings of 30_encoding.md. -/
def Obligations.SampleWordsDecode : Prop :=
  decode 0b0000000100000000 = .command .clr ∧
  decode 0b0000001001000001 = .command (.feed 0x41) ∧
  decode 0b0001000000000000 = .command .rdres ∧
  decode 0b0001000100000000 = .command .rdraw ∧
  decode 0b0001001000000000 = .command .rdstat ∧
  decode 0b0001000000000001 = .illegal 0x1001 ∧
  decode 0b0000001100000000 = .illegal 0x0300

/-! ## The datapath -/

/-- The pseudocode of NibStep in numbers, over any table; with the default table, when it is zero, and the rule's example
(40_datapath.md, section 1; the default is log 2). -/
def Obligations.NibStepIndexesBeforeItShifts : Prop :=
  (∀ (t : NibbleTable) (acc : Word) (n : Nibble),
    (nibStep t acc n).toNat =
      (acc.toNat * 16 % 65536) ^^^ (t.toList.getD ((acc.toNat / 4096) ^^^ n.toNat) 0).toNat) ∧
  (∀ (acc : Word) (n : Nibble),
    nibStep defaultTbl acc n = 0x0000 ↔ acc.toNat % 4096 = 0 ∧ n.toNat = acc.toNat / 4096) ∧
  nibStep defaultTbl 0x1234 0x5 = 0x63C4

/-- ByteStep takes the high nibble first (40_datapath.md, section 2); the numbers are the rule's, with the default table
(log 2). -/
def Obligations.ByteStepTakesTheHighNibbleFirst : Prop :=
  (∀ (t : NibbleTable) (acc : Word) (b : Byte),
    byteStep t acc b =
      nibStep t (nibStep t acc (BitVec.ofNat 4 (b.toNat / 16))) (BitVec.ofNat 4 (b.toNat % 16))) ∧
  byteStep defaultTbl 0x0000 0x00 = 0x0000 ∧
  byteStep defaultTbl 0x0000 0x12 = 0x3273 ∧
  byteStep defaultTbl 0x0000 0x21 = 0x3443 ∧
  byteStep defaultTbl 0x0000 0x41 = 0x58E5

/-- Fold and Raw (40_datapath.md, section 2): the equations, the law for a concatenation over any table, and with the
default table (log 2) that leading zero bytes do not count, and the rule's example. -/
def Obligations.FoldTakesTheBytesInOrder : Prop :=
  (∀ (t : NibbleTable) (acc : Word), fold t acc [] = acc) ∧
  (∀ (t : NibbleTable) (acc : Word) (b : Byte) (s : List Byte), fold t acc (b :: s) = fold t (byteStep t acc b) s) ∧
  (∀ (t : NibbleTable) (s : List Byte), raw t s = fold t 0x0000 s) ∧
  (∀ (t : NibbleTable) (acc : Word) (s u : List Byte), fold t acc (s ++ u) = fold t (fold t acc s) u) ∧
  (∀ s : List Byte, raw defaultTbl (0x00 :: s) = raw defaultTbl s) ∧
  raw defaultTbl [0x51, 0x50, 0x49, 0x47, 0x53] = 0xB7A9

/-- R71: the banned values go up by one, no other value changes, and the addition does not carry out of 8 bits. -/
def Obligations.FixupRaisesExactlyTheBannedBytes : Prop :=
  fix8 0x0A = 0x0B ∧ fix8 0x0D = 0x0E ∧ fix8 0x28 = 0x29 ∧
  (∀ x : Byte, x ≠ 0x0A → x ≠ 0x0D → x ≠ 0x28 → fix8 x = x) ∧
  (∀ x : Byte, x = 0x0A ∨ x = 0x0D ∨ x = 0x28 → (fix8 x).toNat = x.toNat + 1)

/-- R72: each byte of the result is the fixup of that byte of the accumulator; RES is what RDRES answers. -/
def Obligations.ResultIsTheFixupOfEachByte : Prop :=
  (∀ a : Word, (fix16 a).toNat =
    256 * (fix8 (BitVec.ofNat 8 (a.toNat / 256))).toNat + (fix8 (BitVec.ofNat 8 (a.toNat % 256))).toNat) ∧
  (∀ s : State, ∃ s', exec .rdres s = .next s' ∧ s'.resp = some (fix16 s.acc)) ∧
  fix16 0xE20A = 0xE20B ∧ fix16 0x2828 = 0x2929 ∧ fix16 0x0D0A = 0x0E0B ∧ fix16 0xB7A9 = 0xB7A9

/-- The fixup's corner cases (40_datapath.md, section 3): never repeated, the bytes independent, idempotent, not injective,
its range the words without a banned byte, neighbours untouched, never written back. -/
def Obligations.FixupCornerCases : Prop :=
  (∀ x : Byte, fix8 x ∉ [0x0A#8, 0x0D#8, 0x28#8]) ∧
  (∀ a : Word, highByte (fix16 a) = fix8 (highByte a) ∧ lowByte (fix16 a) = fix8 (lowByte a)) ∧
  (∀ a : Word, fix16 (fix16 a) = fix16 a) ∧
  (fix8 0x0A = fix8 0x0B ∧ fix8 0x0D = fix8 0x0E ∧ fix8 0x28 = fix8 0x29) ∧
  (∀ r : Word, (∃ a, fix16 a = r) ↔
    highByte r ∉ [0x0A#8, 0x0D#8, 0x28#8] ∧ lowByte r ∉ [0x0A#8, 0x0D#8, 0x28#8]) ∧
  (fix8 0x09 = 0x09 ∧ fix8 0x0C = 0x0C ∧ fix8 0x27 = 0x27 ∧ fix8 0x0B = 0x0B) ∧
  (∀ s : State, ∃ s', exec .rdres s = .next s' ∧ s'.acc = s.acc)

/-- R74: the delimiter-avoidance invariant. -/
def Obligations.ResultHasNoBannedByte : Prop :=
  ∀ a : Word,
    ((fix16 a).extractLsb' 8 8 ≠ 0x0A#8 ∧ (fix16 a).extractLsb' 8 8 ≠ 0x0D#8 ∧ (fix16 a).extractLsb' 8 8 ≠ 0x28#8) ∧
    ((fix16 a).extractLsb' 0 8 ≠ 0x0A#8 ∧ (fix16 a).extractLsb' 0 8 ≠ 0x0D#8 ∧ (fix16 a).extractLsb' 0 8 ≠ 0x28#8)

/-- Two raw values with one result differ by one of eight words (40_datapath.md, section 4). -/
def Obligations.CollisionsDifferByEightWords : Prop :=
  ∀ a b : Word, fix16 a = fix16 b → a ≠ b →
    a ^^^ b ∈ [0x0001#16, 0x0003#16, 0x0100#16, 0x0300#16, 0x0101#16, 0x0103#16, 0x0301#16, 0x0303#16]

/-- The default table is the one that R23 derives from POLY, in both forms, with the consequences it draws. All of it is
the spec's general knowledge (10_state.md, section 6; log 2). -/
def Obligations.DefaultTableIsDerivedFromThePolynomial : Prop :=
  (∀ i : Nibble, tblRead defaultTbl i = derivedEntry i ∧ tblRead defaultTbl i = carrylessEntry i) ∧
  tblRead defaultTbl 0 = 0x0000 ∧
  (∀ i j : Nibble, tblRead defaultTbl (i ^^^ j) = tblRead defaultTbl i ^^^ tblRead defaultTbl j) ∧
  (∀ i : Nibble, topNibble (tblRead defaultTbl i) = i)

/-- Linearity over XOR, with the default table (40_datapath.md, section 4; log 2). -/
def Obligations.RawIsLinearForTheDefaultTable : Prop :=
  (∀ (a a' : Word) (n n' : Nibble),
    nibStep defaultTbl (a ^^^ a') (n ^^^ n') = nibStep defaultTbl a n ^^^ nibStep defaultTbl a' n') ∧
  (∀ s u : List Byte, s.length = u.length →
    raw defaultTbl (List.zipWith (· ^^^ ·) s u) = raw defaultTbl s ^^^ raw defaultTbl u)

/-- A change of one bit of a frame of at most 255 bytes changes the raw CRC and the result, with the default table
(40_datapath.md, section 4; log 2). -/
def Obligations.EverySingleBitChangeIsSeen : Prop :=
  ∀ (s : List Byte) (i j : Nat), s.length ≤ 255 → i < s.length → j < 8 →
    raw defaultTbl (s.set i (s.getD i 0 ^^^ (1#8 <<< j))) ≠ raw defaultTbl s ∧
    fix16 (raw defaultTbl (s.set i (s.getD i 0 ^^^ (1#8 <<< j)))) ≠ fix16 (raw defaultTbl s)

/-- With the default table the nibble algorithm is the bitwise CRC-16/XModem, and it reproduces the catalogue's check
value (40_datapath.md, section 4; general knowledge of the spec, log 2). -/
def Obligations.NibbleAlgorithmIsTheBitwiseCrc : Prop :=
  (∀ s : List Byte, raw defaultTbl s = bitwiseCrc s) ∧
  raw defaultTbl [0x31, 0x32, 0x33, 0x34, 0x35, 0x36, 0x37, 0x38, 0x39] = 0x31C3 ∧ fix16 0x31C3 = 0x31C3

/-- The raw CRC tells all two-byte frames apart, with the default table (95_test_vectors.md, group V6; log 2). -/
def Obligations.RawTellsTwoByteFramesApart : Prop :=
  ∀ a b c d : Byte, raw defaultTbl [a, b] = raw defaultTbl [c, d] → a = c ∧ b = d

/-- CrcRef (40_datapath.md, section 5): the error, what it records and its code, the value, the empty length, and that only the
first `length` bytes count; over any table. -/
def Obligations.CrcRefReadsTheFirstLengthBytes : Prop :=
  (∀ (t : NibbleTable) (bytes : List Byte) (n : Byte), bytes.length < n.toNat →
    crcRef t bytes n = .error ⟨n, bytes.length⟩) ∧
  (∀ (t : NibbleTable) (bytes : List Byte) (n : Byte), n.toNat ≤ bytes.length →
    crcRef t bytes n = .ok (fix16 (raw t (bytes.take n.toNat)))) ∧
  (∀ (t : NibbleTable) (bytes : List Byte), crcRef t bytes 0 = .ok 0x0000) ∧
  (∀ (t : NibbleTable) (s tail : List Byte), s.length ≤ 255 →
    crcRef t (s ++ tail) (BitVec.ofNat 8 s.length) = .ok (fix16 (raw t s))) ∧
  (∀ (t : NibbleTable) (b b' : List Byte) (n : Byte), n.toNat ≤ b.length → n.toNat ≤ b'.length →
    (∀ k, k < n.toNat → b[k]? = b'[k]?) → crcRef t b n = crcRef t b' n) ∧
  (∀ e : InvalidLength, e.code = 3)

/-! ## The commands -/

/-- R83: CLR's word, its effect and nothing else, that it is idempotent, that it changes nothing at reset, that it alone
clears a flag, and that RDSTAT then answers 0x0000. -/
def Obligations.ClrStartsAFrame : Prop :=
  decode 0x0100 = .command .clr ∧
  (∀ w : Word, w.extractLsb' 8 8 = 0x01#8 → w.extractLsb' 0 8 ≠ 0x00#8 → decode w = .illegal w) ∧
  (∀ s : State, exec .clr s = .next { s with acc := 0x0000, cnt := 0x00, lovf := false, ill := false }) ∧
  (∀ s s' : State, exec .clr s = .next s' → exec .clr s' = .next s') ∧
  exec .clr State.reset = .next State.reset ∧
  (∀ (i : Instr) (s s' : State), exec i s = .next s' →
    (s.lovf = true ∧ s'.lovf = false) ∨ (s.ill = true ∧ s'.ill = false) → i = .clr) ∧
  (∀ s : State, ∃ s' s'', exec .clr s = .next s' ∧ exec .rdstat s' = .next s'' ∧ s''.resp = some 0x0000)

/-- FEED with CNT below 255 (41_frame_commands.md, FEED): the byte is consumed and counted, the count does not wrap,
nothing else changes, whatever the flags hold. -/
def Obligations.FeedConsumesAByte : Prop :=
  ∀ (s : State) (b : Byte), s.cnt ≠ 255 →
    exec (.feed b) s =
      .next { s with
        acc := nibStep s.tbl (nibStep s.tbl s.acc (BitVec.ofNat 4 (b.toNat / 16))) (BitVec.ofNat 4 (b.toNat % 16)),
        cnt := s.cnt + 1 } ∧
    (s.cnt + 1).toNat = s.cnt.toNat + 1

/-- R93: FEED at CNT = 255 sets LOVF and changes nothing else (the event goes into the history of R101); only FEED raises
it; every further FEED raises it again; RDRES still answers; its code. -/
def Obligations.FullFrameRefusesAFeed : Prop :=
  (∀ (s : State) (b : Byte), s.cnt = 255 →
    exec (.feed b) s = .next { s with lovf := true, errLog := s.errLog ++ [.lengthOverflow] }) ∧
  (∀ (i : Instr) (s s' : State), exec i s = .next s' → s'.errLog ≠ s.errLog →
    (∃ b, i = .feed b) ∧ s.cnt = 255 ∧ s'.errLog = s.errLog ++ [.lengthOverflow]) ∧
  (∀ (s : State) (b b' : Byte), s.cnt = 255 → ∃ s' s'', exec (.feed b) s = .next s' ∧ exec (.feed b') s' = .next s'' ∧
    s''.cnt = 255 ∧ s''.acc = s.acc ∧ s''.errLog = s.errLog ++ [.lengthOverflow, .lengthOverflow]) ∧
  (∀ (s : State) (b : Byte), s.cnt = 255 → ∃ s' s'', exec (.feed b) s = .next s' ∧ exec .rdres s' = .next s'' ∧
    s''.resp = some (fix16 s.acc)) ∧
  BlockError.lengthOverflow.code = 2

/-- RDRES (42_readout_commands.md, RDRES): it answers the fixed-up accumulator whatever the flags hold, changes nothing
else, answers the same when repeated, and a FEED after it continues from the raw value. -/
def Obligations.RdresAnswersTheResult : Prop :=
  (∀ s : State, exec .rdres s = .next { s with resp := some (fix16 s.acc), out := s.out ++ [fix16 s.acc] }) ∧
  (∀ s : State, ∃ s' s'', exec .rdres s = .next s' ∧ exec .rdres s' = .next s'' ∧ s''.resp = s'.resp) ∧
  (∀ (s : State) (b : Byte), s.cnt ≠ 255 → ∃ s' s'', exec .rdres s = .next s' ∧ exec (.feed b) s' = .next s'' ∧
    s''.acc = byteStep s.tbl s.acc b)

/-- RDRAW (42_readout_commands.md, RDRAW): it answers the accumulator as it is and changes nothing else. -/
def Obligations.RdrawAnswersTheAccumulator : Prop :=
  ∀ s : State, exec .rdraw s = .next { s with resp := some s.acc, out := s.out ++ [s.acc] }

/-- RDSTAT (42_readout_commands.md, RDSTAT): it answers STATUS and changes nothing else, the flags included; the values
that the rule names. -/
def Obligations.RdstatAnswersStatus : Prop :=
  (∀ s : State, exec .rdstat s = .next { s with resp := some (statusWord s), out := s.out ++ [statusWord s] }) ∧
  (∀ s : State, s.cnt = 255 → s.lovf = true → s.ill = false → statusWord s = 0xFF01) ∧
  (∀ s : State, s.cnt = 0 → s.lovf = false → s.ill = true → statusWord s = 0x0002) ∧
  (∀ s : State, s.cnt = 2 → s.lovf = false → s.ill = false → statusWord s = 0x0200)

/-- R19: the fields of STATUS bit by bit, that RDSTAT returns it, its reset value, and that no command writes the reserved
bits. -/
def Obligations.StatusIsCountThenZerosThenFlags : Prop :=
  (∀ s : State, (statusWord s).extractLsb' 8 8 = s.cnt ∧ (statusWord s).extractLsb' 2 6 = 0#6 ∧
    (statusWord s).getLsbD 1 = s.ill ∧ (statusWord s).getLsbD 0 = s.lovf) ∧
  (∀ s : State, ∃ s', exec .rdstat s = .next s' ∧ s'.resp = some (statusWord s)) ∧
  statusWord State.reset = 0x0000 ∧
  (∀ (i : Instr) (s s' : State), exec i s = .next s' → (statusWord s').extractLsb' 2 6 = 0#6)

/-- R92: an illegal word sets ILL and changes nothing else (the event goes into the history of R101), so it makes no
response, also where it resembles a read, and a second one leaves ILL at 1; no legal command raises it; its code. -/
def Obligations.IllegalWordSetsOnlyIll : Prop :=
  (∀ (w : Word) (s : State), decode w = .illegal w →
    perform w s = .next { s with ill := true, errLog := s.errLog ++ [.illegalCommand] }) ∧
  (∀ (i : Instr) (s s' : State), exec i s = .next s' → s'.ill = true → s.ill = true) ∧
  decode 0x1001 = .illegal 0x1001 ∧
  BlockError.illegalCommand.code = 1

/-- Every command completes, and what each may write to (the writes of 10_state.md, section 9): the frame of all five at
once. -/
def Obligations.CommandsWriteOnlyWhatTheMatrixSays : Prop :=
  ∀ (i : Instr) (s : State), ∃ s', exec i s = .next s' ∧
    (s'.acc ≠ s.acc → i = .clr ∨ ∃ b, i = .feed b ∧ s.cnt ≠ 255) ∧
    (s'.cnt ≠ s.cnt → i = .clr ∨ ∃ b, i = .feed b ∧ s.cnt ≠ 255) ∧
    (s'.lovf ≠ s.lovf → i = .clr ∨ ∃ b, i = .feed b ∧ s.cnt = 255) ∧
    (s'.ill ≠ s.ill → i = .clr) ∧
    (s'.out ≠ s.out → i = .rdres ∨ i = .rdraw ∨ i = .rdstat) ∧
    (s'.resp ≠ s.resp → i = .rdres ∨ i = .rdraw ∨ i = .rdstat) ∧
    s'.tbl = s.tbl ∧ s'.cmds = s.cmds ∧ s'.sched = s.sched ∧ s'.resetReq = s.resetReq

/-- Which commands are idempotent (20_memory.md, section 3): reads, CLR and illegal words are, in the registers; FEED is
not. -/
def Obligations.OnlyFeedIsNotIdempotent : Prop :=
  (∀ (w : Word) (s : State), (∀ b, decode w ≠ .command (.feed b)) → ∃ s' s'', perform w s = .next s' ∧
    perform w s' = .next s'' ∧ s''.acc = s'.acc ∧ s''.cnt = s'.cnt ∧ s''.lovf = s'.lovf ∧ s''.ill = s'.ill ∧
    s''.resp = s'.resp) ∧
  (∀ b : Byte, ∃ s s' s'' : State, exec (.feed b) s = .next s' ∧ exec (.feed b) s' = .next s'' ∧ s''.cnt ≠ s'.cnt)

/-! ## The machine -/

/-- A step in the CORE's turn, with no reset waiting and a legal word at the head of the channel, is `exec` of that command
at the state without the word and the turn; and so for a word placed by `withFetchWord` (log 6). That taking the word
empties the response channel is the model's choice and no rule's (log 3), and the turns are the model's (log 1). -/
def Obligations.StepRunsTheDecodedCommand : Prop :=
  (∀ (s : State) (w : Word) (ws : List Word) (i : Instr), s.sched = [] ∨ s.sched.head? = some .core →
    s.resetReq = false → s.cmds = w :: ws → decode w = .command i →
    step s = exec i { s with cmds := ws, resp := none, sched := s.sched.tail }) ∧
  (∀ (s : State) (w : Word) (i : Instr), decode w = .command i →
    step (s.withFetchWord 16 w.toNat) = exec i { s with resp := none, resetReq := false })

/-- The same for an illegal word (30_encoding.md, section 4): the step answers a next state (60_exceptions.md, section 1)
with ILL set (section 2) and the event in the error history (section 5; that the history is a field of State is the
model's, log 5). That taking the word empties the response channel is the model's choice and no rule's (log 3), and the
turns are the model's (log 1). -/
def Obligations.StepOnAnIllegalWordGoesOn : Prop :=
  ∀ (s : State) (w : Word) (ws : List Word), s.sched = [] ∨ s.sched.head? = some .core →
    s.resetReq = false → s.cmds = w :: ws → decode w = .illegal w →
    step s = .next { s with
      cmds := ws, resp := none, sched := s.sched.tail, ill := true, errLog := s.errLog ++ [.illegalCommand] }

/-- A waiting reset goes before any waiting command (70_reset_and_hazards.md, section 1): the registers of the reset state,
both channels empty, the table kept. That the request waits for the CORE's turn and is then spent (log 7), the turns (log 1)
and that both histories are kept through reset (log 5) are the model's. -/
def Obligations.ResetGoesBeforeWaitingCommands : Prop :=
  ∀ s : State, s.sched = [] ∨ s.sched.head? = some .core → s.resetReq = true →
    step s = .next { s with
      acc := 0x0000, cnt := 0x00, lovf := false, ill := false, cmds := [], resp := none, resetReq := false,
      sched := s.sched.tail }

/-- The HOST's turns (10_state.md, section 1): a delivered word goes behind those that wait, a taken response is gone, an
asserted reset waits for the CORE; no register changes. The model's are the turns (log 1), the channel without a bound
(log 4), the request that waits (log 7) and a take that passes when no response waits (log 20). -/
def Obligations.HostTurnsTouchOnlyTheChannels : Prop :=
  ∀ (s : State) (ts : List Turn) (w : Word),
    (s.sched = .deliver w :: ts → step s = .next { s with sched := ts, cmds := s.cmds ++ [w] }) ∧
    (s.sched = .take :: ts → step s = .next { s with sched := ts, resp := none }) ∧
    (s.sched = .assertReset :: ts → step s = .next { s with sched := ts, resetReq := true })

/-- A block that has nothing to do holds its state (60_exceptions.md, section 7), as it does after reset. That an idle
step answers the same state (log 9) and what `finished` asks (log 18) are the model's. -/
def Obligations.IdleBlockHoldsItsState : Prop :=
  (∀ s : State, finished s = true → step s = .next s) ∧ step State.reset = .next State.reset

/-- The block never stops: every state has a next state, by a step and by any word (60_exceptions.md, section 1). -/
def Obligations.NoStateStopsTheBlock : Prop :=
  (∀ s : State, ∃ s', step s = .next s') ∧ (∀ (w : Word) (s : State), ∃ s', perform w s = .next s') ∧
  (∀ (k : Nat) (s : State), ∃ s', runSteps k s = .next s')

/-- Every step keeps the invariant of `Safety.lean`: LOVF only on a full frame, set flags logged, an empty frame at the
start value, a waiting response the last one made. -/
def Obligations.EveryStepKeepsTheInvariant : Prop :=
  ∀ s s' : State, s.Inv → step s = .next s' → s'.Inv

/-- The reset state meets the invariant. -/
def Obligations.ResetMeetsTheInvariant : Prop := State.reset.Inv

/-- The reset state (10_state.md, section 8): the values of the registers and of the STATUS view, RDRES answering 0x0000.
The table's default is log 2; the empty bookkeeping is log 5 and log 6. -/
def Obligations.ResetValues : Prop :=
  State.reset.acc = 0x0000 ∧ State.reset.cnt = 0x00 ∧ State.reset.lovf = false ∧ State.reset.ill = false ∧
  statusWord State.reset = 0x0000 ∧
  State.reset.tbl.toList = [0x0000#16, 0x1021#16, 0x2042#16, 0x3063#16, 0x4084#16, 0x50A5#16, 0x60C6#16, 0x70E7#16,
    0x8108#16, 0x9129#16, 0xA14A#16, 0xB16B#16, 0xC18C#16, 0xD1AD#16, 0xE1CE#16, 0xF1EF#16] ∧
  State.reset.cmds = [] ∧ State.reset.resp = none ∧
  (∃ s', exec .rdres State.reset = .next s' ∧ s'.resp = some 0x0000)

/-- From any state, the unknown one at power-up among them, CLR and reset each establish the launch premise of a frame
(70_reset_and_hazards.md, section 2); CLR leaves the waiting commands where they are, reset does not. -/
def Obligations.ClrAndResetEstablishFrameStart : Prop :=
  (∀ (s : State) (ws : List Word), s.Loaded (0x0100 :: ws) → ∃ s', step s = .next s' ∧ s'.FrameStart ∧ s'.cmds = ws ∧
    s'.tbl = s.tbl) ∧
  (∀ s : State, s.sched = [] → s.resetReq = true → ∃ s', step s = .next s' ∧ s'.FrameStart ∧ s'.cmds = [] ∧
    s'.tbl = s.tbl) ∧
  (∃ s', step (State.powerUp.withFetchWord 16 0x0100) = .next s' ∧ s'.FrameStart) ∧
  State.reset.FrameStart

/-- No step writes the table (10_state.md, section 6), and no run. -/
def Obligations.TableIsNeverWritten : Prop :=
  (∀ s s' : State, step s = .next s' → s'.tbl = s.tbl) ∧
  (∀ (k : Nat) (s s' : State), runSteps k s = .next s' → s'.tbl = s.tbl)

/-- The histories only grow, by at most one event a step. The error history is cleared by no step (60_exceptions.md,
section 5) and a command raises at most one error (section 4); a command makes at most one response (20_memory.md, section
2), the responses are the run's observation (70_reset_and_hazards.md, section 5), and no step makes both. That no step,
reset included, clears the list of responses is the model's (log 5). -/
def Obligations.HistoriesOnlyGrow : Prop :=
  ∀ s s' : State, step s = .next s' → ∃ es os, s'.errLog = s.errLog ++ es ∧ s'.out = s.out ++ os ∧
    es.length + os.length ≤ 1

/-- A set flag stays set through every step but a reset and a CLR (10_state.md, section 4). -/
def Obligations.FlagsAreSticky : Prop :=
  ∀ s s' : State, step s = .next s' →
    (s.lovf = true ∧ s'.lovf = false) ∨ (s.ill = true ∧ s'.ill = false) →
    s.resetReq = true ∨ ∃ ws, s.cmds = 0x0100 :: ws

/-- A flag is set by its own error only (10_state.md, section 4; 60_exceptions.md, section 2). -/
def Obligations.AFlagIsSetOnlyByItsError : Prop :=
  ∀ s s' : State, step s = .next s' →
    (s.lovf = false → s'.lovf = true →
      s.cnt = 255 ∧ (∃ b ws, s.cmds = encode (.feed b) :: ws) ∧ s'.errLog = s.errLog ++ [.lengthOverflow]) ∧
    (s.ill = false → s'.ill = true →
      (∃ w ws, s.cmds = w :: ws ∧ decode w = .illegal w) ∧ s'.errLog = s.errLog ++ [.illegalCommand])

/-- ACC has no other writers than CLR, reset and an accepted FEED (10_state.md, section 3). -/
def Obligations.NothingElseWritesTheAccumulator : Prop :=
  ∀ s s' : State, step s = .next s' →
    s'.acc = s.acc ∨
    (s'.acc = 0x0000 ∧ (s.resetReq = true ∨ ∃ ws, s.cmds = 0x0100 :: ws)) ∨
    (∃ b ws, s.cmds = encode (.feed b) :: ws ∧ s.cnt ≠ 255 ∧ s'.acc = byteStep s.tbl s.acc b)

/-- CNT never wraps (10_state.md, section 3): a step leaves it, adds one below 256, or starts a frame. -/
def Obligations.TheCounterNeverWraps : Prop :=
  ∀ s s' : State, step s = .next s' →
    s'.cnt = s.cnt ∨ s'.cnt.toNat = s.cnt.toNat + 1 ∨
    (s'.cnt = 0 ∧ s'.acc = 0x0000 ∧ s'.lovf = false ∧ s'.ill = false)

/-! ## Runs -/

/-- CLR then RDRES answers 0x0000 over any table and from any state, and so does CrcRef of nothing (R81). -/
def Obligations.EmptyFrameAnswersZero : Prop :=
  (∀ t : NibbleTable, crcRef t [] 0 = .ok 0x0000) ∧ fix16 0x0000 = 0x0000 ∧
  (∀ s : State, s.Loaded [0x0100, 0x1000] → ∃ s', runSteps 2 s = .next s' ∧ s'.resp = some 0x0000)

/-- The block computes CrcRef (40_datapath.md, section 5): after a run from a frame's start, of FEEDs and any reads and
illegal words between them and no CLR, the three reads answer the result, the raw CRC and the status. -/
def Obligations.TheBlockComputesCrcRef : Prop :=
  ∀ (s : State) (ws : List Word), s.FrameStart → s.Loaded (ws ++ [0x1000, 0x1100, 0x1200]) →
    (∀ w ∈ ws, isClr w = false) → (fedBytes ws).length ≤ 255 →
    ∃ s' os r, runSteps (ws.length + 3) s = .next s' ∧
      crcRef s.tbl (fedBytes ws) (BitVec.ofNat 8 (fedBytes ws).length) = .ok r ∧
      s'.out = s.out ++ os ++ [r, raw s.tbl (fedBytes ws),
        BitVec.ofNat 16 (256 * (fedBytes ws).length + (if ws.any isIllegal then 2 else 0))]

/-- Over any words, from any frame (41_frame_commands.md; 60_exceptions.md, section 2): ACC and CNT are those of the bytes
fed since the last CLR, the first 255 of them; LOVF is set when more than 255 were fed since then and ILL when an illegal
word came since then; where no CLR came, each flag also keeps what it held, and the frame before counts. -/
def Obligations.RegistersFollowTheCurrentFrame : Prop :=
  ∀ (s : State) (ws : List Word) (fed : List Byte), s.Loaded ws → fed.length ≤ 255 → s.acc = raw s.tbl fed →
    s.cnt = BitVec.ofNat 8 fed.length →
    ∃ s', runSteps ws.length s = .next s' ∧ s'.acc = raw s.tbl (frameAfter fed ws) ∧
      s'.cnt = BitVec.ofNat 8 (frameAfter fed ws).length ∧ (frameAfter fed ws).length ≤ 255 ∧
      (s'.lovf = true ↔ (ws.any isClr = false ∧ s.lovf = true) ∨
        255 < (if ws.any isClr then 0 else fed.length) + (fedBytes (sinceClr ws)).length) ∧
      (s'.ill = true ↔ (ws.any isClr = false ∧ s.ill = true) ∨ (sinceClr ws).any isIllegal = true)

/-- R116: FEEDs without a CLR or reset before them continue from ACC and CNT; after a frame of the bytes `a` the raw value
is that of `a` and the new bytes together. -/
def Obligations.FeedsWithoutClrContinueTheFrame : Prop :=
  (∀ (s : State) (b : List Byte), s.Loaded (feedWords b) → s.cnt.toNat + b.length ≤ 255 →
    ∃ s', runSteps b.length s = .next s' ∧ s'.acc = fold s.tbl s.acc b ∧ s'.cnt.toNat = s.cnt.toNat + b.length) ∧
  (∀ (s : State) (a b : List Byte), s.FrameStart → s.Loaded (feedWords a ++ feedWords b) → a.length + b.length ≤ 255 →
    ∃ s', runSteps (a.length + b.length) s = .next s' ∧ s'.acc = raw s.tbl (a ++ b))

/-- A frame of more than 255 bytes (93_implementation_defined.md, U2): the registers of its first 255, LOVF, and one
LengthOverflow for every byte after them. -/
def Obligations.OverlongFrameKeepsItsFirst255Bytes : Prop :=
  ∀ (s : State) (b : List Byte), s.FrameStart → s.Loaded (feedWords b) → 255 < b.length →
    ∃ s', runSteps b.length s = .next s' ∧ s'.acc = raw s.tbl (b.take 255) ∧ s'.cnt = 255 ∧ s'.lovf = true ∧
      s'.ill = false ∧ s'.errLog = s.errLog ++ List.replicate (b.length - 255) .lengthOverflow

/-- A frame is clean at its end exactly when no error occurred in it (60_exceptions.md, section 5). -/
def Obligations.CleanMeansNoErrorOccurred : Prop :=
  ∀ (s : State) (ws : List Word), s.FrameStart → s.Loaded ws → (∀ w ∈ ws, isClr w = false) →
    ∃ s', runSteps ws.length s = .next s' ∧ (s'.Clean ↔ ErrorFree s s')

/-- Each read makes exactly one response, no other word makes any (20_memory.md, section 2). -/
def Obligations.OnlyReadsMakeResponses : Prop :=
  ∀ (s : State) (ws : List Word), s.Loaded ws →
    ∃ s', runSteps ws.length s = .next s' ∧
      s'.out.length = s.out.length + ws.countP fun w => [0x1000#16, 0x1100#16, 0x1200#16].contains w

/-- Sequential consistency at command granularity (20_memory.md, section 4): however the turns of HOST and CORE interleave,
with no reset among them, the run ends with what performing the words in their order gives. The turns are the model's
(log 1), and so are the consumption of responses (log 3), the unbounded, reliable command channel (log 4) and what
`finished` asks (log 18). -/
def Obligations.SchedulesDoNotChangeTheRun : Prop :=
  ∀ (s : State) (k : Nat), s.resetReq = false → Turn.assertReset ∉ s.sched →
    s.sched.length + s.cmds.length + (deliveredWords s.sched).length ≤ k →
    ∃ s' u, runSteps k s = .next s' ∧ finished s' = true ∧
      runSteps (s.cmds.length + (deliveredWords s.sched).length)
        { s with cmds := s.cmds ++ deliveredWords s.sched, sched := [] } = .next u ∧
      observe s' = observe u

/-- A shared block (70_reset_and_hazards.md, section 3): for every interleaving of two hosts' FEEDs, the raw value is that
of the interleaved byte stream. -/
def Obligations.SharedBlockChecksumsTheMergedStream : Prop :=
  ∀ (s : State) (x y : List Byte) (m : List Word), s.FrameStart → isMerge (feedWords x) (feedWords y) m = true →
    x.length + y.length ≤ 255 → s.Loaded m →
    ∃ s', runSteps m.length s = .next s' ∧ s'.acc = raw s.tbl (fedBytes m) ∧ s'.cnt.toNat = x.length + y.length

/-- The flags, the histories and a waiting response never influence the checksum: two states that agree on the rest agree
on ACC and CNT after any steps. -/
def Obligations.FlagsDoNotInfluenceTheChecksum : Prop :=
  ∀ (s u : State) (k : Nat), s.acc = u.acc → s.cnt = u.cnt → s.tbl = u.tbl → s.cmds = u.cmds → s.sched = u.sched →
    s.resetReq = u.resetReq →
    ∃ s' u', runSteps k s = .next s' ∧ runSteps k u = .next u' ∧ s'.acc = u'.acc ∧ s'.cnt = u'.cnt

/-! ## Several blocks, the host's use of the result, the assembler -/

/-- Blocks are independent (60_exceptions.md, section 7): a step of one is its own step, no other block changes, the steps
of two blocks commute, and blocks that share a table go on sharing it. -/
def Obligations.BlocksAreIndependent : Prop :=
  (∀ (k : Nat) (ss : List State), ∃ ss', replicaStep k ss = .next ss' ∧ ss'.length = ss.length ∧
    (∀ j, j ≠ k → ss'[j]? = ss[j]?) ∧
    (∀ s, ss[k]? = some s → ∃ s', step s = .next s' ∧ ss'[k]? = some s')) ∧
  (∀ (j k : Nat) (ss : List State), j ≠ k → replicaRun [j, k] ss = replicaRun [k, j] ss) ∧
  (∀ (t : NibbleTable) (ks : List Nat) (ss ss' : List State), sharesTable t ss = true →
    replicaRun ks ss = .next ss' → sharesTable t ss' = true)

/-- The residue of a payload and its sent checksum bytes, high byte first, is zero exactly when no byte was fixed up, with
the default table (42_readout_commands.md, the last rule; log 2); and the check by comparison accepts exactly the sent
bytes. The payload has no bound here: that the residue and the check take every byte where payload and checksum exceed
the 255 bytes of the block's frame is the model's choice and no rule's (log 19). -/
def Obligations.ResidueIsZeroOnlyWithoutAFixup : Prop :=
  ∀ (p : List Byte),
    (residue defaultTbl p (highByte (fix16 (raw defaultTbl p))) (lowByte (fix16 (raw defaultTbl p))) = 0x0000 ↔
      fix16 (raw defaultTbl p) = raw defaultTbl p) ∧
    (∀ (t : NibbleTable) (h l : Byte),
      payloadAccepted t p h l = true ↔ h = highByte (fix16 (raw t p)) ∧ l = lowByte (fix16 (raw t p)))

/-- The words of an assembled text are the expansions of its lines' statements, in order, and each is legal or is the
value of a `.word` line of the text (30_encoding.md, section 5); a well-formed statement other than `.word` expands to
legal words only, every statement that a line parses to is well-formed, and `.word` emits its value as it is. What the
text forms are is in part the model's (log 11). -/
def Obligations.TheAssemblerEmitsOnlyLegalWords : Prop :=
  (∀ (text : List Nat) (ws : List Word), assemble text = .ok ws → ∃ sts : List (Option Stmt),
    (splitLines text).map parseLine = sts.map .ok ∧ ws = sts.flatMap fun st => (st.map expand).getD []) ∧
  (∀ (text : List Nat) (ws : List Word), assemble text = .ok ws → ∀ w ∈ ws, (∃ i, decode w = .command i) ∨
    ∃ line ∈ splitLines text, ∃ v, parseLine line = .ok (some (.word v)) ∧ w.toNat = v) ∧
  (∀ st : Stmt, st.wf = true → (∀ v, st ≠ .word v) → ∀ w ∈ expand st, ∃ i, decode w = .command i) ∧
  (∀ (line : List Nat) (st : Stmt), parseLine line = .ok (some st) → st.wf = true) ∧
  (∀ v, v ≤ 0xFFFF → ∃ w, expand (.word v) = [w] ∧ w.toNat = v)

/-- `CRC "s"` answers CrcRef(s, |s|) (30_encoding.md, section 5), from any state. -/
def Obligations.CrcPseudoInstructionAnswersCrcRef : Prop :=
  ∀ (s : State) (b : List Byte), (Stmt.crc b).wf = true → s.Loaded (expand (.crc b)) →
    ∃ s' r, runSteps (b.length + 2) s = .next s' ∧ crcRef s.tbl b (BitVec.ofNat 8 b.length) = .ok r ∧ s'.resp = some r
end

