-- ==== Sys2Proof/Laws/Assembler.lean ====
section
/-! SUPPORT. What a line and the lines after it assemble to: the two equations and the inversion that later proofs cite in
place of unfolding the assembler. -/

namespace Sys2Proof.Machine

@[simp] theorem assembleLines_nil : assembleLines [] = .ok [] := rfl

/-- Where the lines assemble, the first of them parses, the rest assemble, and the words are those of both in order. -/
theorem assembleLines_cons_ok {l : List Nat} {ls : List (List Nat)} {ws : List Word}
    (h : assembleLines (l :: ls) = .ok ws) :
    ∃ st vs, parseLine l = .ok st ∧ assembleLines ls = .ok vs ∧ ws = (st.map expand).getD [] ++ vs := by
  rw [assembleLines] at h
  cases hl : parseLine l with
  | error e => simp [hl] at h
  | ok st =>
    cases hs : assembleLines ls with
    | error e => simp [hl, hs] at h
    | ok vs => exact ⟨st, vs, rfl, rfl, by simpa [hl, hs] using h.symm⟩

/-- The first error of the lines is the answer. -/
theorem assembleLines_cons_error {l : List Nat} (ls : List (List Nat)) {e : AsmError} (h : parseLine l = .error e) :
    assembleLines (l :: ls) = .error e := by
  rw [assembleLines, h]

/-- A statement read from an operand is well-formed, and is the one the operand makes. -/
theorem operandStmt_ok {α : Type} {f : α → Stmt} {o : Option α} {st : Stmt} (h : operandStmt f o = .ok st) :
    st.wf = true ∧ ∃ a, o = some a ∧ st = f a := by
  cases o with
  | none => simp [operandStmt] at h
  | some a =>
    by_cases hw : (f a).wf = true
    · obtain rfl : f a = st := by simpa [operandStmt, hw] using h
      exact ⟨hw, a, rfl, rfl⟩
    · simp [operandStmt, hw] at h

theorem bareStmt_ok {s st : Stmt} {operand : List Nat} (h : bareStmt s operand = .ok st) : operand = [] ∧ st = s := by
  by_cases ho : operand = []
  · simp only [bareStmt, ho, if_true] at h
    exact ⟨ho, (Except.ok.inj h).symm⟩
  · simp [bareStmt, ho] at h

end Sys2Proof.Machine
end

