-- ==== Sys2Proof/Laws/Datapath.lean ====
section
/-! SUPPORT. The small equations of the datapath: what each function does to one more nibble or byte, and the bytes of a
composed word. -/

namespace Sys2Proof.Machine

@[simp] theorem fold_nil (t : NibbleTable) (acc : Word) : fold t acc [] = acc := rfl

@[simp] theorem fold_cons (t : NibbleTable) (acc : Word) (b : Byte) (s : List Byte) :
    fold t acc (b :: s) = fold t (byteStep t acc b) s := rfl

@[simp] theorem raw_nil (t : NibbleTable) : raw t [] = 0x0000 := rfl

@[simp] theorem highByte_joinBytes (h l : Byte) : highByte (joinBytes h l) = h := by
  apply BitVec.eq_of_getLsbD_eq
  intro i hi
  have h16 : 8 + i < 16 := by omega
  have h8 : ¬ 8 + i < 8 := by omega
  simp [highByte, joinBytes, hi, h16, h8]

@[simp] theorem lowByte_joinBytes (h l : Byte) : lowByte (joinBytes h l) = l := by
  apply BitVec.eq_of_getLsbD_eq
  intro i hi
  have h16 : i < 16 := by omega
  simp [lowByte, joinBytes, hi, h16]

@[simp] theorem joinBytes_highByte_lowByte (w : Word) : joinBytes (highByte w) (lowByte w) = w := by
  apply BitVec.eq_of_getLsbD_eq
  intro i hi
  by_cases h : i < 8
  · simp [highByte, lowByte, joinBytes, h, hi]
  · have h8 : i - 8 < 8 := by omega
    have h9 : 8 + (i - 8) = i := by omega
    simp [highByte, lowByte, joinBytes, h, hi, h8, h9]

theorem mem_banned (x : Byte) : x ∈ banned ↔ x = 0x0A ∨ x = 0x0D ∨ x = 0x28 := by
  simp [banned]

theorem crcRef_of_short (t : NibbleTable) {bytes : List Byte} {n : Byte} (h : bytes.length < n.toNat) :
    crcRef t bytes n = .error ⟨n, bytes.length⟩ := by
  simp [crcRef, h]

theorem crcRef_of_enough (t : NibbleTable) {bytes : List Byte} {n : Byte} (h : n.toNat ≤ bytes.length) :
    crcRef t bytes n = .ok (fix16 (raw t (bytes.take n.toNat))) := by
  simp [crcRef, raw, Nat.not_lt.mpr h]

end Sys2Proof.Machine
end

