-- ==== Sys2Proof/Laws/Decode.lean ====
section
/-! SUPPORT. When a word decodes to each command: the inversion of the decoder, test by test. -/

namespace Sys2Proof

/-- What a legal word is. -/
theorem decode_command_cases {w : Word} {i : Instr} (h : decode w = .command i) :
    (w = 0x0100 ∧ i = .clr) ∨ (opField w = 0x02 ∧ i = .feed (d8Field w)) ∨ (w = 0x1000 ∧ i = .rdres) ∨
    (w = 0x1100 ∧ i = .rdraw) ∨ (w = 0x1200 ∧ i = .rdstat) := by
  unfold decode at h
  split at h
  · simp_all
  · split at h
    · simp_all
    · split at h
      · simp_all
      · split at h
        · simp_all
        · split at h <;> simp_all

/-- A word that decodes to no command decodes to itself, illegal. -/
theorem decode_illegal_self {w v : Word} (h : decode w = .illegal v) : v = w := by
  unfold decode at h
  repeat' (split at h)
  all_goals simp_all

end Sys2Proof
end

