-- ==== Sys2Proof/Laws/State.lean ====
section
/-! SUPPORT. One lemma per field and operation on the state, so that no later proof unfolds a record update. -/

namespace Sys2Proof.Machine

@[simp] theorem respond_acc (v : Word) (s : State) : (respond v s).acc = s.acc := rfl
@[simp] theorem respond_cnt (v : Word) (s : State) : (respond v s).cnt = s.cnt := rfl
@[simp] theorem respond_lovf (v : Word) (s : State) : (respond v s).lovf = s.lovf := rfl
@[simp] theorem respond_ill (v : Word) (s : State) : (respond v s).ill = s.ill := rfl
@[simp] theorem respond_tbl (v : Word) (s : State) : (respond v s).tbl = s.tbl := rfl
@[simp] theorem respond_cmds (v : Word) (s : State) : (respond v s).cmds = s.cmds := rfl
@[simp] theorem respond_resp (v : Word) (s : State) : (respond v s).resp = some v := rfl
@[simp] theorem respond_resetReq (v : Word) (s : State) : (respond v s).resetReq = s.resetReq := rfl
@[simp] theorem respond_sched (v : Word) (s : State) : (respond v s).sched = s.sched := rfl
@[simp] theorem respond_errLog (v : Word) (s : State) : (respond v s).errLog = s.errLog := rfl
@[simp] theorem respond_out (v : Word) (s : State) : (respond v s).out = s.out ++ [v] := rfl

@[simp] theorem clearFlags_acc (s : State) : (clearFlags s).acc = s.acc := rfl
@[simp] theorem clearFlags_cnt (s : State) : (clearFlags s).cnt = s.cnt := rfl
@[simp] theorem clearFlags_lovf (s : State) : (clearFlags s).lovf = false := rfl
@[simp] theorem clearFlags_ill (s : State) : (clearFlags s).ill = false := rfl
@[simp] theorem clearFlags_tbl (s : State) : (clearFlags s).tbl = s.tbl := rfl
@[simp] theorem clearFlags_cmds (s : State) : (clearFlags s).cmds = s.cmds := rfl
@[simp] theorem clearFlags_resp (s : State) : (clearFlags s).resp = s.resp := rfl
@[simp] theorem clearFlags_resetReq (s : State) : (clearFlags s).resetReq = s.resetReq := rfl
@[simp] theorem clearFlags_sched (s : State) : (clearFlags s).sched = s.sched := rfl
@[simp] theorem clearFlags_errLog (s : State) : (clearFlags s).errLog = s.errLog := rfl
@[simp] theorem clearFlags_out (s : State) : (clearFlags s).out = s.out := rfl

@[simp] theorem startFrame_acc (s : State) : (startFrame s).acc = 0x0000 := rfl
@[simp] theorem startFrame_cnt (s : State) : (startFrame s).cnt = 0x00 := rfl
@[simp] theorem startFrame_lovf (s : State) : (startFrame s).lovf = false := rfl
@[simp] theorem startFrame_ill (s : State) : (startFrame s).ill = false := rfl
@[simp] theorem startFrame_tbl (s : State) : (startFrame s).tbl = s.tbl := rfl
@[simp] theorem startFrame_cmds (s : State) : (startFrame s).cmds = s.cmds := rfl
@[simp] theorem startFrame_resp (s : State) : (startFrame s).resp = s.resp := rfl
@[simp] theorem startFrame_resetReq (s : State) : (startFrame s).resetReq = s.resetReq := rfl
@[simp] theorem startFrame_sched (s : State) : (startFrame s).sched = s.sched := rfl
@[simp] theorem startFrame_errLog (s : State) : (startFrame s).errLog = s.errLog := rfl
@[simp] theorem startFrame_out (s : State) : (startFrame s).out = s.out := rfl

@[simp] theorem acceptByte_acc (b : Byte) (s : State) : (acceptByte b s).acc = byteStep s.tbl s.acc b := rfl
@[simp] theorem acceptByte_cnt (b : Byte) (s : State) : (acceptByte b s).cnt = s.cnt + 1 := rfl
@[simp] theorem acceptByte_lovf (b : Byte) (s : State) : (acceptByte b s).lovf = s.lovf := rfl
@[simp] theorem acceptByte_ill (b : Byte) (s : State) : (acceptByte b s).ill = s.ill := rfl
@[simp] theorem acceptByte_tbl (b : Byte) (s : State) : (acceptByte b s).tbl = s.tbl := rfl
@[simp] theorem acceptByte_cmds (b : Byte) (s : State) : (acceptByte b s).cmds = s.cmds := rfl
@[simp] theorem acceptByte_resp (b : Byte) (s : State) : (acceptByte b s).resp = s.resp := rfl
@[simp] theorem acceptByte_resetReq (b : Byte) (s : State) : (acceptByte b s).resetReq = s.resetReq := rfl
@[simp] theorem acceptByte_sched (b : Byte) (s : State) : (acceptByte b s).sched = s.sched := rfl
@[simp] theorem acceptByte_errLog (b : Byte) (s : State) : (acceptByte b s).errLog = s.errLog := rfl
@[simp] theorem acceptByte_out (b : Byte) (s : State) : (acceptByte b s).out = s.out := rfl

@[simp] theorem applyReset_acc (s : State) : (applyReset s).acc = 0x0000 := rfl
@[simp] theorem applyReset_cnt (s : State) : (applyReset s).cnt = 0x00 := rfl
@[simp] theorem applyReset_lovf (s : State) : (applyReset s).lovf = false := rfl
@[simp] theorem applyReset_ill (s : State) : (applyReset s).ill = false := rfl
@[simp] theorem applyReset_tbl (s : State) : (applyReset s).tbl = s.tbl := rfl
@[simp] theorem applyReset_cmds (s : State) : (applyReset s).cmds = [] := rfl
@[simp] theorem applyReset_resp (s : State) : (applyReset s).resp = none := rfl
@[simp] theorem applyReset_resetReq (s : State) : (applyReset s).resetReq = false := rfl
@[simp] theorem applyReset_sched (s : State) : (applyReset s).sched = s.sched := rfl
@[simp] theorem applyReset_errLog (s : State) : (applyReset s).errLog = s.errLog := rfl
@[simp] theorem applyReset_out (s : State) : (applyReset s).out = s.out := rfl

@[simp] theorem deliverWord_acc (w : Word) (s : State) : (deliverWord w s).acc = s.acc := rfl
@[simp] theorem deliverWord_cnt (w : Word) (s : State) : (deliverWord w s).cnt = s.cnt := rfl
@[simp] theorem deliverWord_lovf (w : Word) (s : State) : (deliverWord w s).lovf = s.lovf := rfl
@[simp] theorem deliverWord_ill (w : Word) (s : State) : (deliverWord w s).ill = s.ill := rfl
@[simp] theorem deliverWord_tbl (w : Word) (s : State) : (deliverWord w s).tbl = s.tbl := rfl
@[simp] theorem deliverWord_cmds (w : Word) (s : State) : (deliverWord w s).cmds = s.cmds ++ [w] := rfl
@[simp] theorem deliverWord_resp (w : Word) (s : State) : (deliverWord w s).resp = s.resp := rfl
@[simp] theorem deliverWord_resetReq (w : Word) (s : State) : (deliverWord w s).resetReq = s.resetReq := rfl
@[simp] theorem deliverWord_sched (w : Word) (s : State) : (deliverWord w s).sched = s.sched := rfl
@[simp] theorem deliverWord_errLog (w : Word) (s : State) : (deliverWord w s).errLog = s.errLog := rfl
@[simp] theorem deliverWord_out (w : Word) (s : State) : (deliverWord w s).out = s.out := rfl

@[simp] theorem takeResponse_acc (s : State) : (takeResponse s).acc = s.acc := rfl
@[simp] theorem takeResponse_cnt (s : State) : (takeResponse s).cnt = s.cnt := rfl
@[simp] theorem takeResponse_lovf (s : State) : (takeResponse s).lovf = s.lovf := rfl
@[simp] theorem takeResponse_ill (s : State) : (takeResponse s).ill = s.ill := rfl
@[simp] theorem takeResponse_tbl (s : State) : (takeResponse s).tbl = s.tbl := rfl
@[simp] theorem takeResponse_cmds (s : State) : (takeResponse s).cmds = s.cmds := rfl
@[simp] theorem takeResponse_resp (s : State) : (takeResponse s).resp = none := rfl
@[simp] theorem takeResponse_resetReq (s : State) : (takeResponse s).resetReq = s.resetReq := rfl
@[simp] theorem takeResponse_sched (s : State) : (takeResponse s).sched = s.sched := rfl
@[simp] theorem takeResponse_errLog (s : State) : (takeResponse s).errLog = s.errLog := rfl
@[simp] theorem takeResponse_out (s : State) : (takeResponse s).out = s.out := rfl

@[simp] theorem requestReset_acc (s : State) : (requestReset s).acc = s.acc := rfl
@[simp] theorem requestReset_cnt (s : State) : (requestReset s).cnt = s.cnt := rfl
@[simp] theorem requestReset_lovf (s : State) : (requestReset s).lovf = s.lovf := rfl
@[simp] theorem requestReset_ill (s : State) : (requestReset s).ill = s.ill := rfl
@[simp] theorem requestReset_tbl (s : State) : (requestReset s).tbl = s.tbl := rfl
@[simp] theorem requestReset_cmds (s : State) : (requestReset s).cmds = s.cmds := rfl
@[simp] theorem requestReset_resp (s : State) : (requestReset s).resp = s.resp := rfl
@[simp] theorem requestReset_resetReq (s : State) : (requestReset s).resetReq = true := rfl
@[simp] theorem requestReset_sched (s : State) : (requestReset s).sched = s.sched := rfl
@[simp] theorem requestReset_errLog (s : State) : (requestReset s).errLog = s.errLog := rfl
@[simp] theorem requestReset_out (s : State) : (requestReset s).out = s.out := rfl

@[simp] theorem placeCommand_acc (w : Word) (s : State) : (placeCommand w s).acc = s.acc := rfl
@[simp] theorem placeCommand_cnt (w : Word) (s : State) : (placeCommand w s).cnt = s.cnt := rfl
@[simp] theorem placeCommand_lovf (w : Word) (s : State) : (placeCommand w s).lovf = s.lovf := rfl
@[simp] theorem placeCommand_ill (w : Word) (s : State) : (placeCommand w s).ill = s.ill := rfl
@[simp] theorem placeCommand_tbl (w : Word) (s : State) : (placeCommand w s).tbl = s.tbl := rfl
@[simp] theorem placeCommand_cmds (w : Word) (s : State) : (placeCommand w s).cmds = w :: s.cmds := rfl
@[simp] theorem placeCommand_resp (w : Word) (s : State) : (placeCommand w s).resp = s.resp := rfl
@[simp] theorem placeCommand_resetReq (w : Word) (s : State) : (placeCommand w s).resetReq = false := rfl
@[simp] theorem placeCommand_sched (w : Word) (s : State) : (placeCommand w s).sched = .core :: s.sched := rfl
@[simp] theorem placeCommand_errLog (w : Word) (s : State) : (placeCommand w s).errLog = s.errLog := rfl
@[simp] theorem placeCommand_out (w : Word) (s : State) : (placeCommand w s).out = s.out := rfl

@[simp] theorem setErrorFlag_acc (e : BlockError) (s : State) : (setErrorFlag e s).acc = s.acc := by cases e <;> rfl
@[simp] theorem setErrorFlag_cnt (e : BlockError) (s : State) : (setErrorFlag e s).cnt = s.cnt := by cases e <;> rfl
@[simp] theorem setErrorFlag_tbl (e : BlockError) (s : State) : (setErrorFlag e s).tbl = s.tbl := by cases e <;> rfl
@[simp] theorem setErrorFlag_cmds (e : BlockError) (s : State) : (setErrorFlag e s).cmds = s.cmds := by cases e <;> rfl
@[simp] theorem setErrorFlag_resp (e : BlockError) (s : State) : (setErrorFlag e s).resp = s.resp := by cases e <;> rfl
@[simp] theorem setErrorFlag_resetReq (e : BlockError) (s : State) : (setErrorFlag e s).resetReq = s.resetReq := by cases e <;> rfl
@[simp] theorem setErrorFlag_sched (e : BlockError) (s : State) : (setErrorFlag e s).sched = s.sched := by cases e <;> rfl
@[simp] theorem setErrorFlag_errLog (e : BlockError) (s : State) : (setErrorFlag e s).errLog = s.errLog := by cases e <;> rfl
@[simp] theorem setErrorFlag_out (e : BlockError) (s : State) : (setErrorFlag e s).out = s.out := by cases e <;> rfl
@[simp] theorem setErrorFlag_illegalCommand_lovf (s : State) : (setErrorFlag .illegalCommand s).lovf = s.lovf := rfl
@[simp] theorem setErrorFlag_illegalCommand_ill (s : State) : (setErrorFlag .illegalCommand s).ill = true := rfl
@[simp] theorem setErrorFlag_lengthOverflow_lovf (s : State) : (setErrorFlag .lengthOverflow s).lovf = true := rfl
@[simp] theorem setErrorFlag_lengthOverflow_ill (s : State) : (setErrorFlag .lengthOverflow s).ill = s.ill := rfl

@[simp] theorem raiseError_acc (e : BlockError) (s : State) : (raiseError e s).acc = s.acc := by cases e <;> rfl
@[simp] theorem raiseError_cnt (e : BlockError) (s : State) : (raiseError e s).cnt = s.cnt := by cases e <;> rfl
@[simp] theorem raiseError_tbl (e : BlockError) (s : State) : (raiseError e s).tbl = s.tbl := by cases e <;> rfl
@[simp] theorem raiseError_cmds (e : BlockError) (s : State) : (raiseError e s).cmds = s.cmds := by cases e <;> rfl
@[simp] theorem raiseError_resp (e : BlockError) (s : State) : (raiseError e s).resp = s.resp := by cases e <;> rfl
@[simp] theorem raiseError_resetReq (e : BlockError) (s : State) : (raiseError e s).resetReq = s.resetReq := by cases e <;> rfl
@[simp] theorem raiseError_sched (e : BlockError) (s : State) : (raiseError e s).sched = s.sched := by cases e <;> rfl
@[simp] theorem raiseError_errLog (e : BlockError) (s : State) : (raiseError e s).errLog = s.errLog ++ [e] := by cases e <;> rfl
@[simp] theorem raiseError_out (e : BlockError) (s : State) : (raiseError e s).out = s.out := by cases e <;> rfl
@[simp] theorem raiseError_illegalCommand_lovf (s : State) : (raiseError .illegalCommand s).lovf = s.lovf := rfl
@[simp] theorem raiseError_illegalCommand_ill (s : State) : (raiseError .illegalCommand s).ill = true := rfl
@[simp] theorem raiseError_lengthOverflow_lovf (s : State) : (raiseError .lengthOverflow s).lovf = true := rfl
@[simp] theorem raiseError_lengthOverflow_ill (s : State) : (raiseError .lengthOverflow s).ill = s.ill := rfl

end Sys2Proof.Machine
end

