-- ==== Sys2Proof/Laws/Flags.lean ====
section
/-! SUPPORT. STATUS depends on the counter and the flags alone, and its high byte is the counter. -/

namespace Sys2Proof.Machine

theorem statusWord_congr {s u : State} (hc : s.cnt = u.cnt) (hl : s.lovf = u.lovf) (hi : s.ill = u.ill) :
    statusWord s = statusWord u := by
  simp only [statusWord, hc, hl, hi]

@[simp] theorem highByte_statusWord (s : State) : highByte (statusWord s) = s.cnt :=
  highByte_joinBytes _ _

theorem lowByte_statusWord (s : State) : lowByte (statusWord s) = (flagBit s.ill <<< 1) ||| flagBit s.lovf :=
  lowByte_joinBytes _ _

end Sys2Proof.Machine
end

