-- ==== Sys2Proof/Laws/PerInstr.lean ====
section
/-! SUPPORT. The family TableRow, one lemma per constructor: a command's row stands in the opcode map of 30_encoding.md
R56, and its encoding matches the row. -/

namespace Sys2Proof.Laws.TableRow

def Statement (i : Instr) : Prop := i.row ∈ opcodeTable ∧ i.row.accepts (encode i) = true

theorem clr : Statement .clr := by unfold Statement; decide

theorem feed (b : Byte) : Statement (.feed b) := by
  refine ⟨by decide +revert, ?_⟩
  revert b
  decide

theorem rdres : Statement .rdres := by unfold Statement; decide

theorem rdraw : Statement .rdraw := by unfold Statement; decide

theorem rdstat : Statement .rdstat := by unfold Statement; decide

end Sys2Proof.Laws.TableRow
end

