-- ==== Sys2Proof/Laws/Turns.lean ====
section
/-! SUPPORT. Everything that the shared operations of a step can do, said once: the fetch of a turn and of a command, the
execution of a word, a turn of the CORE, a step. Later proofs cite these inversion lemmas and unfold nothing. -/

namespace Sys2Proof.Machine

theorem nextTurn_nil {s : State} (h : s.sched = []) : nextTurn s = (.core, s) := by
  simp [nextTurn, h]

theorem nextTurn_cons {s : State} {t : Turn} {ts : List Turn} (h : s.sched = t :: ts) :
    nextTurn s = (t, { s with sched := ts }) := by
  simp [nextTurn, h]

/-- A turn is taken from the schedule and nothing else changes. -/
theorem nextTurn_state (s : State) : (nextTurn s).2 = { s with sched := s.sched.tail } := by
  cases h : s.sched with
  | nil => rw [nextTurn_nil h, List.tail_nil, ← h]
  | cons t ts => rw [nextTurn_cons h, List.tail_cons]

theorem nextCommand_nil {s : State} (h : s.cmds = []) : nextCommand s = none := by
  simp [nextCommand, h]

theorem nextCommand_cons {s : State} {w : Word} {ws : List Word} (h : s.cmds = w :: ws) :
    nextCommand s = some (w, { s with cmds := ws, resp := none }) := by
  simp [nextCommand, h]

/-- The state a command word leaves behind: what `perform` answers, as a state. -/
def afterWord (w : Word) (s : State) : State :=
  match decode w with
  | .command .clr => startFrame s
  | .command (.feed b) => if s.cnt = maxLen then raiseError .lengthOverflow s else acceptByte b s
  | .command .rdres => respond (fix16 s.acc) s
  | .command .rdraw => respond s.acc s
  | .command .rdstat => respond (statusWord s) s
  | .illegal _ => raiseError .illegalCommand s

/-- Performing a word always answers that state. -/
theorem perform_eq (w : Word) (s : State) : perform w s = .next (afterWord w s) := by
  unfold perform afterWord
  cases decode w with
  | illegal v => rfl
  | command i =>
    cases i with
    | feed b => simp only [exec, execFeed]; split <;> rfl
    | _ => rfl

/-- What performing a word can do: the six effects of the spec, each with its condition. -/
theorem afterWord_cases (w : Word) (s : State) :
    (decode w = .command .clr ∧ afterWord w s = startFrame s) ∨
    (∃ b, decode w = .command (.feed b) ∧ s.cnt = maxLen ∧ afterWord w s = raiseError .lengthOverflow s) ∨
    (∃ b, decode w = .command (.feed b) ∧ s.cnt ≠ maxLen ∧ afterWord w s = acceptByte b s) ∨
    (∃ i v, decode w = .command i ∧ i ∈ [.rdres, .rdraw, .rdstat] ∧ afterWord w s = respond v s) ∨
    (∃ v, decode w = .illegal v ∧ afterWord w s = raiseError .illegalCommand s) := by
  unfold afterWord
  cases hd : decode w with
  | illegal v => simp
  | command i =>
    cases i with
    | clr => simp
    | feed b => by_cases h : s.cnt = maxLen <;> simp [h]
    | rdres => simpa using ⟨_, rfl⟩
    | rdraw => simpa using ⟨_, rfl⟩
    | rdstat => simpa using ⟨_, rfl⟩

/-- The CORE's turn answers a next state: reset, idle, or the oldest word performed. -/
theorem coreTurn_cases (s : State) :
    (s.resetReq = true ∧ coreTurn s = .next (applyReset s)) ∨
    (s.resetReq = false ∧ s.cmds = [] ∧ coreTurn s = .next s) ∨
    (∃ w ws, s.resetReq = false ∧ s.cmds = w :: ws ∧
      coreTurn s = .next (afterWord w { s with cmds := ws, resp := none })) := by
  cases hr : s.resetReq with
  | true => simp [coreTurn, hr]
  | false =>
    cases hc : s.cmds with
    | nil => simp [coreTurn, hr, nextCommand_nil hc]
    | cons w ws => simp [coreTurn, hr, nextCommand_cons hc, perform_eq]

/-- A step is a turn: the head of the schedule, or the CORE's turn when none is planned. -/
theorem step_eq_of_nil {s : State} (h : s.sched = []) : step s = coreTurn s := by
  simp [step, nextTurn_nil h, takeTurn]

theorem step_eq_of_core {s : State} {ts : List Turn} (h : s.sched = .core :: ts) :
    step s = coreTurn { s with sched := ts } := by
  simp [step, nextTurn_cons h, takeTurn]

theorem step_eq_of_deliver {s : State} {w : Word} {ts : List Turn} (h : s.sched = .deliver w :: ts) :
    step s = .next (deliverWord w { s with sched := ts }) := by
  simp [step, nextTurn_cons h, takeTurn]

theorem step_eq_of_take {s : State} {ts : List Turn} (h : s.sched = .take :: ts) :
    step s = .next (takeResponse { s with sched := ts }) := by
  simp [step, nextTurn_cons h, takeTurn]

theorem step_eq_of_assertReset {s : State} {ts : List Turn} (h : s.sched = .assertReset :: ts) :
    step s = .next (requestReset { s with sched := ts }) := by
  simp [step, nextTurn_cons h, takeTurn]

/-- With no turn planned, or the CORE's at the head, a step is the CORE's turn at the state without that turn. -/
theorem step_eq_coreTurn {s : State} (h : s.sched = [] ∨ s.sched.head? = some .core) :
    step s = coreTurn { s with sched := s.sched.tail } := by
  cases hs : s.sched with
  | nil =>
    rw [step_eq_of_nil hs, List.tail_nil, ← hs]
  | cons t ts =>
    obtain rfl : t = .core := by simpa [hs] using h
    exact step_eq_of_core hs

/-- Everything a step can do. A turn of a HOST, or of an idle CORE, leaves the registers, the table and the histories
alone and at most takes the response; else the CORE resets, or performs the oldest word. -/
theorem step_cases (s : State) :
    (∃ t, step s = .next t ∧ t.acc = s.acc ∧ t.cnt = s.cnt ∧ t.lovf = s.lovf ∧ t.ill = s.ill ∧ t.tbl = s.tbl ∧
      t.errLog = s.errLog ∧ t.out = s.out ∧ (t.resp = s.resp ∨ t.resp = none)) ∨
    (s.resetReq = true ∧ step s = .next (applyReset { s with sched := s.sched.tail })) ∨
    (∃ w ws, s.resetReq = false ∧ s.cmds = w :: ws ∧
      step s = .next (afterWord w { s with cmds := ws, resp := none, sched := s.sched.tail })) := by
  by_cases hcore : s.sched = [] ∨ s.sched.head? = some .core
  · rw [step_eq_coreTurn hcore]
    obtain ⟨hr, h⟩ | ⟨hr, hc, h⟩ | ⟨w, ws, hr, hc, h⟩ := coreTurn_cases { s with sched := s.sched.tail }
    · exact .inr (.inl ⟨hr, h⟩)
    · exact .inl ⟨_, h, rfl, rfl, rfl, rfl, rfl, rfl, rfl, .inl rfl⟩
    · exact .inr (.inr ⟨w, ws, hr, hc, h⟩)
  · left
    cases hs : s.sched with
    | nil => exact absurd (.inl hs) hcore
    | cons t ts =>
      cases t with
      | core => exact absurd (.inr (by rw [hs]; rfl)) hcore
      | deliver w => exact ⟨_, step_eq_of_deliver hs, rfl, rfl, rfl, rfl, rfl, rfl, rfl, .inl rfl⟩
      | take => exact ⟨_, step_eq_of_take hs, rfl, rfl, rfl, rfl, rfl, rfl, rfl, .inr rfl⟩
      | assertReset => exact ⟨_, step_eq_of_assertReset hs, rfl, rfl, rfl, rfl, rfl, rfl, rfl, .inl rfl⟩

/-- The word that `withFetchWord` placed is taken by the next step. -/
theorem step_placeCommand (w : Word) (s : State) :
    step (placeCommand w s) = perform w { s with resp := none, resetReq := false } := by
  simp [step, nextTurn, takeTurn, coreTurn, nextCommand, placeCommand]

end Sys2Proof.Machine
end

