-- ==== Sys2Proof/Laws/Runs.lean ====
section
/-! SUPPORT. Runs: steps one by one, and what a run over waiting words leaves, packaged as one induction. -/

namespace Sys2Proof.Machine

@[simp] theorem runSteps_zero (s : State) : runSteps 0 s = .next s := rfl

theorem runSteps_succ {s t : State} (k : Nat) (h : step s = .next t) : runSteps (k + 1) s = runSteps k t := by
  have hc : Sys2Proof.core.step s = .next t := h
  simp only [runSteps, Host.Core.run, hc]
  rfl

theorem runSteps_succ_refused {s : State} {r : Refusal} (k : Nat) (h : step s = .refused r) :
    runSteps (k + 1) s = .refused r := by
  have hc : Sys2Proof.core.step s = .refused r := h
  simp only [runSteps, Host.Core.run, hc]
  rfl

theorem runSteps_add {s t : State} (j k : Nat) (h : runSteps j s = .next t) :
    runSteps (j + k) s = runSteps k t := by
  induction j generalizing s with
  | zero =>
    rw [runSteps_zero] at h
    rw [Nat.zero_add, Host.Outcome.next.inj h]
  | succ j ih =>
    rw [Nat.succ_add]
    cases hs : step s with
    | next u => rw [runSteps_succ _ hs] at h ⊢; exact ih h
    | fault r => cases r
    | refused r => rw [runSteps_succ_refused _ hs] at h; cases h

/-- The state after the oldest waiting word is taken and performed. -/
def afterNext (w : Word) (s : State) : State := afterWord w { s with cmds := s.cmds.tail, resp := none }

/-- The state after the words are taken and performed one after the other. -/
def afterWords : List Word → State → State
  | [], s => s
  | w :: ws, s => afterWords ws (afterNext w s)

@[simp] theorem afterWords_nil (s : State) : afterWords [] s = s := rfl

@[simp] theorem afterWords_cons (w : Word) (ws : List Word) (s : State) :
    afterWords (w :: ws) s = afterWords ws (afterNext w s) := rfl

theorem afterWords_append (ws vs : List Word) (s : State) :
    afterWords (ws ++ vs) s = afterWords vs (afterWords ws s) := by
  induction ws generalizing s with
  | nil => rfl
  | cons w ws ih => exact ih _

/-- Performing a word leaves the channel, the turns, the reset signal and the table alone. -/
theorem afterWord_keeps (w : Word) (s : State) :
    (afterWord w s).cmds = s.cmds ∧ (afterWord w s).sched = s.sched ∧ (afterWord w s).resetReq = s.resetReq ∧
      (afterWord w s).tbl = s.tbl := by
  obtain ⟨-, h⟩ | ⟨b, -, -, h⟩ | ⟨b, -, -, h⟩ | ⟨i, v, -, -, h⟩ | ⟨v, -, h⟩ := afterWord_cases w s <;> simp [h]

@[simp] theorem fedBytes_nil : fedBytes [] = [] := rfl

theorem fedBytes_append (ws vs : List Word) : fedBytes (ws ++ vs) = fedBytes ws ++ fedBytes vs :=
  List.filterMap_append

@[simp] theorem frameAfter_nil (fed : List Byte) : frameAfter fed [] = fed := rfl

/-- The words one at a time: the frame after the first is where the rest start. -/
theorem frameAfter_cons (fed : List Byte) (w : Word) (ws : List Word) :
    frameAfter fed (w :: ws) = frameAfter (frameAfter fed [w]) ws := rfl

@[simp] theorem sinceClr_nil : sinceClr [] = [] := rfl

theorem sinceClr_of_no_clr {ws : List Word} (h : ws.any isClr = false) : sinceClr ws = ws := by
  cases ws with
  | nil => rfl
  | cons w ws =>
    rw [List.any_cons, Bool.or_eq_false_iff] at h
    simp [sinceClr, h.1, h.2]

theorem sinceClr_of_clr (w : Word) {ws : List Word} (h : ws.any isClr = true) : sinceClr (w :: ws) = sinceClr ws := by
  simp [sinceClr, h]

theorem sinceClr_clr {w : Word} {ws : List Word} (hw : isClr w = true) (h : ws.any isClr = false) :
    sinceClr (w :: ws) = ws := by
  simp [sinceClr, hw, h]

theorem step_of_loaded {s : State} {w : Word} {ws : List Word} (h : s.Loaded (w :: ws)) :
    step s = .next (afterNext w s) ∧ (afterNext w s).Loaded ws := by
  obtain ⟨hc, hs, hr⟩ := h
  obtain ⟨kc, ks, kr, -⟩ := afterWord_keeps w { s with cmds := s.cmds.tail, resp := none }
  refine ⟨?_, ?_⟩
  · rw [step_eq_of_nil hs]
    simp [coreTurn, hr, nextCommand_cons hc, perform_eq, afterNext, hc]
  · exact ⟨by simpa [afterNext, hc] using kc, by simpa [afterNext, hs] using ks, by simpa [afterNext, hr] using kr⟩

/-- A run over waiting words performs them in their order. -/
theorem runSteps_of_loaded {s : State} {ws vs : List Word} (h : s.Loaded (ws ++ vs)) :
    runSteps ws.length s = .next (afterWords ws s) ∧ (afterWords ws s).Loaded vs := by
  induction ws generalizing s with
  | nil => exact ⟨rfl, h⟩
  | cons w ws ih =>
    obtain ⟨hs, hl⟩ := step_of_loaded (by simpa using h)
    rw [List.length_cons, runSteps_succ _ hs]
    exact ih hl

end Sys2Proof.Machine
end

