-- ==== Sys2Proof/Tests/Slice0.lean ====
section
/-! SUPPORT. The model's own tests. The expected results are the spec's: the encodings of 30_encoding.md, the worked
examples and vectors of 95_test_vectors.md, named at each test. Then the witnesses: for every statement with hypotheses, a
concrete state and operands that meet them together. -/

namespace Sys2Proof.Tests

open Sys2Proof Sys2Proof.Machine

/-- The state with the registers given in the vectors' notation, the rest as after reset. -/
def regs (acc : Word) (cnt : Byte) (lovf ill : Bool) : State :=
  { State.reset with acc := acc, cnt := cnt, lovf := lovf, ill := ill }

/-- The state with words waiting. -/
def load (ws : List Word) (s : State) : State := { s with cmds := ws }

/-! ## Well-formedness: an ill-formed statement for each check (R61, R62) -/

theorem test_wf_feed_range : (Stmt.feed 255).wf = true ∧ (Stmt.feed 256).wf = false := by decide

theorem test_wf_feeds_length :
    (Stmt.feeds [0x51]).wf = true ∧ (Stmt.feeds []).wf = false ∧ (Stmt.feeds (List.replicate 256 0)).wf = false := by
  decide +kernel

theorem test_wf_crc_length :
    (Stmt.crc []).wf = true ∧ (Stmt.crc (List.replicate 256 0)).wf = false := by decide +kernel

theorem test_wf_word_range : (Stmt.word 0xFFFF).wf = true ∧ (Stmt.word 0x10000).wf = false := by decide

/-! ## Decoding: every constructor's word, written out from R54 and R56, and the illegal words of group V10 -/

theorem test_decode_clr : decode 0b0000000100000000 = .command .clr := by decide

theorem test_decode_feed :
    decode 0b0000001001000001 = .command (.feed 0x41) ∧ decode 0b0000001011111111 = .command (.feed 0xFF) := by decide

theorem test_decode_rdres : decode 0b0001000000000000 = .command .rdres := by decide

theorem test_decode_rdraw : decode 0b0001000100000000 = .command .rdraw := by decide

theorem test_decode_rdstat : decode 0b0001001000000000 = .command .rdstat := by decide

theorem test_decode_illegal :
    [0x0000, 0xFFFF, 0x0101, 0x01FF, 0x1001, 0x1101, 0x1201, 0x0300, 0x1300, 0x0F00, 0x2000].all isIllegal = true := by
  decide

theorem test_encode : [encode .clr, encode (.feed 0x41), encode .rdres, encode .rdraw, encode .rdstat] =
    [0x0100, 0x0241, 0x1000, 0x1100, 0x1200] := by decide

theorem test_decodeTableWord :
    decodeTableWord 16 0x0241 = some (.feed 0x41) ∧ decodeTableWord 16 0x1001 = none ∧
    decodeTableWord 24 0x0100 = none := by decide

/-! ## The datapath: groups V2, V3, V4, V5, V8 -/

/-- V2: the index is taken before the shift; bits 15:12 are discarded. -/
theorem test_nibStep : nibStep defaultTbl 0x1234 0x5 = 0x63C4 ∧ nibStep defaultTbl 0xFFFF 0x0 = 0x0E1F ∧
    nibStep defaultTbl 0x8000 0x8 = 0x0000 := by decide

/-- V3. -/
theorem test_byteStep : byteStep defaultTbl 0x4AD4 0x50 = 0x677B ∧ byteStep defaultTbl 0xFFFF 0xFF = 0xFF00 ∧
    byteStep defaultTbl 0x0000 0x21 = 0x3443 := by decide

/-- V3, V5: "QPIGS" and "123456789". -/
theorem test_raw : raw defaultTbl [0x51, 0x50, 0x49, 0x47, 0x53] = 0xB7A9 ∧
    raw defaultTbl [0x31, 0x32, 0x33, 0x34, 0x35, 0x36, 0x37, 0x38, 0x39] = 0x31C3 := by decide

/-- V4: the banned values and their neighbours; both bytes. -/
theorem test_fix16 : [0x0A0D, 0x2828, 0x0B0A, 0xE20A, 0x0909, 0x0C0C, 0x2727].map fix16 =
    [0x0B0E, 0x2929, 0x0B0B, 0xE20B, 0x0909, 0x0C0C, 0x2727] := by decide

/-- V8.2 to V8.7. -/
theorem test_crcRef :
    crcRef defaultTbl [0x51, 0x50, 0x49, 0x47, 0x53] 0 = .ok 0x0000 ∧
    crcRef defaultTbl [0x51, 0x50, 0x49, 0x47, 0x53, 0x0D] 5 = .ok 0xB7A9 ∧
    crcRef defaultTbl [0x50, 0x4F, 0x50, 0x30, 0x32] 5 = .ok 0xE20B ∧
    crcRef defaultTbl [0x41] 2 = .error ⟨2, 1⟩ ∧ crcRef defaultTbl [] 1 = .error ⟨1, 0⟩ := by decide

/-- R77's form and V5's check value. -/
theorem test_bitwiseCrc : bitwiseCrc [0x31, 0x32, 0x33, 0x34, 0x35, 0x36, 0x37, 0x38, 0x39] = 0x31C3 := by decide +kernel

/-- V7: the residue of "QPIGS" is zero, that of "POP02" with its sent bytes is not. -/
theorem test_residue :
    residue defaultTbl [0x51, 0x50, 0x49, 0x47, 0x53] 0xB7 0xA9 = 0x0000 ∧
    residue defaultTbl [0x50, 0x4F, 0x50, 0x30, 0x32] 0xE2 0x0B = 0x1021 := by decide

/-- V5: "bytes on the wire (high first)". -/
theorem test_wireBytes : wireBytes .highFirst 0xE20B = [0xE2, 0x0B] := by decide

/-! ## The commands: group V9, one step each -/

/-- V9.1. -/
theorem test_clr : step ((regs 0xB7A9 5 false true).withFetchWord 16 0x0100) = .next (regs 0x0000 0 false false) := by rfl

/-- V9.6. -/
theorem test_feed : step ((regs 0x4AD4 1 false false).withFetchWord 16 0x0250) = .next (regs 0x677B 2 false false) := by rfl

/-- V9.9: ACC and CNT stay. -/
theorem test_feed_full : step ((regs 0xDA6E 255 false false).withFetchWord 16 0x02FF) =
    .next { regs 0xDA6E 255 true false with errLog := [.lengthOverflow] } := by rfl

/-- V9.12: the fixup is not written back. -/
theorem test_rdres : step ((regs 0xE20A 5 false false).withFetchWord 16 0x1000) =
    .next { regs 0xE20A 5 false false with resp := some 0xE20B, out := [0xE20B] } := by rfl

/-- V9.15. -/
theorem test_rdraw : step ((regs 0xE20A 5 false false).withFetchWord 16 0x1100) =
    .next { regs 0xE20A 5 false false with resp := some 0xE20A, out := [0xE20A] } := by rfl

/-- V9.17: the flags are not cleared by the read. -/
theorem test_rdstat : step ((regs 0xDA6E 255 true false).withFetchWord 16 0x1200) =
    .next { regs 0xDA6E 255 true false with resp := some 0xFF01, out := [0xFF01] } := by rfl

/-- V9.19: both flags. -/
theorem test_rdstat_both : (statusWord (regs 0x0000 255 true true)) = 0xFF03 := by decide

/-- V10: 0x1001 looks like RDRES and sends nothing. -/
theorem test_illegal : step ((regs 0x1234 3 false false).withFetchWord 16 0x1001) =
    .next { regs 0x1234 3 false true with errLog := [.illegalCommand] } := by rfl

/-- R111: reset empties both channels before the waiting CLR is looked at. -/
theorem test_reset : step { load [0x0251] (regs 0x1234 3 true true) with resp := some 0x0300, resetReq := true } =
    .next State.reset := by rfl

/-! ## The assembler: the programs P1, P4 and P7 of 95_test_vectors.md, and R61's errors -/

/-- P7, first line with its comment. -/
theorem test_asm_crc : assemble (codes "CRC \"QID\" ; 0x0100 0x0251") =
    .ok [0x0100, 0x0251, 0x0249, 0x0244, 0x1000] := by decide +kernel

/-- P4: character literals, raw words, blank lines. -/
theorem test_asm_forms : assemble (codes "CLR\nFEED 'Q'\n.word 0x1001\n\nFEED 0b1001\nFEED 13\nRDSTAT ; status") =
    .ok [0x0100, 0x0251, 0x1001, 0x0209, 0x020D, 0x1200] := by decide +kernel

/-- R62's escapes; a `;` inside quotes is no comment (log 11). -/
theorem test_asm_escapes : assemble (codes "FEEDS \"P;\\r\\n\\x28\"") =
    .ok [0x0250, 0x023B, 0x020D, 0x020A, 0x0228] := by decide +kernel

/-- R61: out of range, an operand where none is taken, an unknown mnemonic. -/
theorem test_asm_errors :
    assemble (codes "FEED 256") = .error .outOfRange ∧ assemble (codes "CLR 1") = .error .unexpectedOperand ∧
    assemble (codes "clr") = .error .unknownMnemonic ∧ assemble (codes "FEEDS \"\"") = .error .outOfRange ∧
    assemble (codes "FEED") = .error .badOperand := by decide +kernel

/-- Log 11: empty, blank and comment lines assemble to nothing. -/
theorem test_asm_blank_lines : assemble (codes "\n  \t\n; note\nCLR\n") = .ok [0x0100] := by decide +kernel

/-- Log 11: a line feed ends the line inside quotes too; R62's escape stands for it. -/
theorem test_asm_line_feed_in_quotes :
    assemble (codes "FEEDS \"A\nB\"") = .error .badOperand ∧ assemble (codes "FEEDS \"A\\nB\"") = .ok [0x0241, 0x020A, 0x0242] := by
  decide +kernel

/-- Log 11: `\xHH` is taken above 0x7F too, as one character. -/
theorem test_asm_escape_above_ascii :
    assemble (codes "CRC \"\\x7F\\x80\\xff\"") = .ok [0x0100, 0x027F, 0x0280, 0x02FF, 0x1000] := by decide +kernel

/-- Log 11: without a blank the operand belongs to the mnemonic. -/
theorem test_asm_blank_required :
    assemble (codes "FEED'Q'") = .error .unknownMnemonic ∧ assemble (codes "FEED 'Q'") = .ok [0x0251] := by
  decide +kernel

/-! ## Witnesses: the hypotheses of each statement can be met together -/

theorem witness_OpcodeMapAgreesWithTheDecoder :
    decode 0x02FF = .command (.feed 0xFF) ∧ (Instr.feed 0xFF).row ∈ opcodeTable ∧
    (0x02FF : Word) &&& (Instr.feed 0xFF).row.mask = (Instr.feed 0xFF).row.pattern := by decide

theorem witness_EncodeOfDecodeIsTheWord : decode 0x1200 = .command .rdstat := by decide

theorem witness_IllegalWordsAreExactlyTheRest :
    decode 0x0000 = .illegal 0x0000 ∧ decode 0x12FF = .illegal 0x12FF := by decide

theorem witness_FixupRaisesExactlyTheBannedBytes :
    (0x0B : Byte) ≠ 0x0A ∧ (0x0B : Byte) ≠ 0x0D ∧ (0x0B : Byte) ≠ 0x28 ∧
    ((0x28 : Byte) = 0x0A ∨ (0x28 : Byte) = 0x0D ∨ (0x28 : Byte) = 0x28) := by decide

theorem witness_CollisionsDifferByEightWords : fix16 0x2828 = fix16 0x2929 ∧ (0x2828 : Word) ≠ 0x2929 := by decide

theorem witness_RawIsLinearForTheDefaultTable : ([0x51, 0x50] : List Byte).length = ([0x00, 0xFF] : List Byte).length := by
  decide

theorem witness_EverySingleBitChangeIsSeen :
    (List.replicate 255 (0xFF : Byte)).length ≤ 255 ∧ 254 < (List.replicate 255 (0xFF : Byte)).length ∧ 7 < 8 := by decide +kernel

theorem witness_RawTellsTwoByteFramesApart : raw defaultTbl [0x0D, 0xFB] = raw defaultTbl [0x0D, 0xFB] := by decide

theorem witness_CrcRefReadsTheFirstLengthBytes :
    ([0x41] : List Byte).length < (2 : Byte).toNat ∧ (1 : Byte).toNat ≤ ([0x41] : List Byte).length ∧
    (List.replicate 255 (0x41 : Byte)).length ≤ 255 ∧ (1 : Byte).toNat ≤ ([0x41, 0x0D] : List Byte).length ∧
    ∀ k, k < (1 : Byte).toNat → ([0x41] : List Byte)[k]? = ([0x41, 0x0D] : List Byte)[k]? := by decide +kernel

theorem witness_ClrStartsAFrame :
    ((0x0101 : Word).extractLsb' 8 8 = 0x01#8 ∧ (0x0101 : Word).extractLsb' 0 8 ≠ 0x00#8) ∧
    exec .clr (regs 0xB7A9 5 true true) = .next (regs 0x0000 0 false false) ∧
    (regs 0xB7A9 5 true true).lovf = true ∧ (regs 0x0000 0 false false).lovf = false ∧
    (regs 0xB7A9 5 true true).ill = true ∧ (regs 0x0000 0 false false).ill = false :=
  ⟨by decide, rfl, rfl, rfl, rfl, rfl⟩

theorem witness_FeedConsumesAByte : (regs 0x0000 254 true true).cnt ≠ 255 ∧ (regs 0x0000 0 false false).cnt ≠ 255 := by
  decide

theorem witness_FullFrameRefusesAFeed :
    (regs 0xDA6E 255 false false).cnt = 255 ∧
    exec (.feed 0xFF) (regs 0xDA6E 255 false false) =
      .next { regs 0xDA6E 255 true false with errLog := [.lengthOverflow] } ∧
    ([.lengthOverflow] : List BlockError) ≠ (regs 0xDA6E 255 false false).errLog :=
  ⟨by decide, rfl, by decide⟩

theorem witness_RdresAnswersTheResult : (regs 0xE20A 5 true true).cnt ≠ 255 := by decide

theorem witness_RdstatAnswersStatus :
    ((regs 0xDA6E 255 true false).cnt = 255 ∧ (regs 0xDA6E 255 true false).lovf = true ∧
      (regs 0xDA6E 255 true false).ill = false) ∧
    ((regs 0x0000 0 false true).cnt = 0 ∧ (regs 0x0000 0 false true).lovf = false ∧
      (regs 0x0000 0 false true).ill = true) ∧
    ((regs 0xA4E7 2 false false).cnt = 2 ∧ (regs 0xA4E7 2 false false).lovf = false ∧
      (regs 0xA4E7 2 false false).ill = false) := by decide

theorem witness_StatusIsCountThenZerosThenFlags :
    ∃ s', exec .rdstat (regs 0x0000 255 true true) = .next s' := ⟨_, rfl⟩

theorem witness_IllegalWordSetsOnlyIll :
    decode 0xFFFF = .illegal 0xFFFF ∧
    (∃ s', exec (.feed 0x41) (regs 0x0000 0 false true) = .next s' ∧ s'.ill = true) := ⟨by decide, _, rfl, rfl⟩

theorem witness_OnlyFeedIsNotIdempotent : ∀ b, decode 0x1000 ≠ .command (.feed b) := by
  intro b h
  cases h

theorem witness_StepRunsTheDecodedCommand :
    ((load [0x0241, 0x1000] State.reset).sched = [] ∧ (load [0x0241, 0x1000] State.reset).resetReq = false ∧
      (load [0x0241, 0x1000] State.reset).cmds = [0x0241, 0x1000] ∧ decode 0x0241 = .command (.feed 0x41)) ∧
    (({ load [0x0241] State.reset with sched := [.core, .take] } : State).sched.head? = some .core) := by decide

theorem witness_StepOnAnIllegalWordGoesOn :
    (load [0x0000] State.reset).sched = [] ∧ (load [0x0000] State.reset).resetReq = false ∧
    (load [0x0000] State.reset).cmds = [0x0000] ∧ decode 0x0000 = .illegal 0x0000 := by decide

theorem witness_ResetGoesBeforeWaitingCommands :
    ({ load [0x0251] (regs 0x1234 3 true true) with resetReq := true } : State).sched = [] ∧
    ({ load [0x0251] (regs 0x1234 3 true true) with resetReq := true } : State).resetReq = true := by decide

theorem witness_HostTurnsTouchOnlyTheChannels :
    ({ State.reset with sched := [.deliver 0x0100, .core] } : State).sched = .deliver 0x0100 :: [.core] ∧
    ({ State.reset with sched := [.take], resp := some 0x0000 } : State).sched = .take :: [] ∧
    ({ State.reset with sched := [.assertReset, .core] } : State).sched = .assertReset :: [.core] := by decide

theorem witness_IdleBlockHoldsItsState : finished (regs 0x1234 3 true true) = true := by decide

/-- A full frame with both flags logged and the last response waiting. -/
def overfull : State :=
  { load [0x02FF] (regs 0xDA6E 255 true true) with
    errLog := [.illegalCommand, .lengthOverflow], out := [0x0000, 0xDA6E], resp := some 0xDA6E }

theorem witness_EveryStepKeepsTheInvariant : overfull.Inv ∧ ∃ s', step overfull = .next s' ∧ s'.lovf = true := by
  refine ⟨⟨by decide, by decide, by decide, by decide, ?_⟩, _, rfl, rfl⟩
  intro v hv
  cases hv
  decide

theorem witness_ClrAndResetEstablishFrameStart :
    (load [0x0100, 0x0241] (regs 0xB7A9 255 true true)).Loaded (0x0100 :: [0x0241]) ∧
    ({ regs 0xB7A9 255 true true with resetReq := true } : State).sched = [] ∧
    ({ regs 0xB7A9 255 true true with resetReq := true } : State).resetReq = true := by
  refine ⟨by unfold State.Loaded; decide, by decide, by decide⟩

theorem witness_TableIsNeverWritten :
    (∃ s', step (load [0x0241] State.reset) = .next s') ∧ (∃ s', runSteps 2 (load [0x0241] State.reset) = .next s') :=
  ⟨⟨_, rfl⟩, ⟨_, rfl⟩⟩

theorem witness_HistoriesOnlyGrow : ∃ s', step overfull = .next s' ∧ s'.errLog ≠ overfull.errLog :=
  ⟨_, rfl, by decide⟩

theorem witness_FlagsAreSticky :
    ∃ s', step (load [0x0100] (regs 0xDA6E 255 true true)) = .next s' ∧
      ((load [0x0100] (regs 0xDA6E 255 true true)).lovf = true ∧ s'.lovf = false) ∧
      ((load [0x0100] (regs 0xDA6E 255 true true)).ill = true ∧ s'.ill = false) := ⟨_, rfl, ⟨rfl, rfl⟩, rfl, rfl⟩

theorem witness_AFlagIsSetOnlyByItsError :
    (∃ s', step (load [0x02FF] (regs 0xDA6E 255 false false)) = .next s' ∧ s'.lovf = true) ∧
    (∃ s', step (load [0x1001] (regs 0x1234 3 false false)) = .next s' ∧ s'.ill = true) :=
  ⟨⟨_, rfl, rfl⟩, _, rfl, rfl⟩

theorem witness_NothingElseWritesTheAccumulator :
    ∃ s', step (load [0x0241] State.reset) = .next s' ∧ s'.acc = 0x58E5 := ⟨_, rfl, by decide⟩

theorem witness_TheCounterNeverWraps :
    ∃ s', step (load [0x0200] (regs 0x0000 254 false false)) = .next s' ∧ s'.cnt = 255 := ⟨_, rfl, by decide⟩

theorem witness_EmptyFrameAnswersZero : (load [0x0100, 0x1000] overfull).Loaded [0x0100, 0x1000] := by
  unfold State.Loaded
  decide

theorem witness_TheBlockComputesCrcRef :
    (load [0x0251, 0x0000, 0x0249, 0x1200, 0x1000, 0x1100, 0x1200] State.reset).FrameStart ∧
    (load [0x0251, 0x0000, 0x0249, 0x1200, 0x1000, 0x1100, 0x1200] State.reset).Loaded
      ([0x0251, 0x0000, 0x0249, 0x1200] ++ [0x1000, 0x1100, 0x1200]) ∧
    (∀ w ∈ ([0x0251, 0x0000, 0x0249, 0x1200] : List Word), isClr w = false) ∧
    (fedBytes [0x0251, 0x0000, 0x0249, 0x1200]).length ≤ 255 := by
  refine ⟨⟨rfl, rfl, rfl, rfl, rfl⟩, ⟨rfl, rfl, rfl⟩, ?_, by decide⟩
  intro w hw
  fin_cases hw <;> decide

theorem witness_RegistersFollowTheCurrentFrame :
    (load [0x0250, 0x0100, 0x0241] (regs 0x4AD4 1 false false)).Loaded [0x0250, 0x0100, 0x0241] ∧
    ([0x51] : List Byte).length ≤ 255 ∧
    (load [0x0250, 0x0100, 0x0241] (regs 0x4AD4 1 false false)).acc =
      raw (load [0x0250, 0x0100, 0x0241] (regs 0x4AD4 1 false false)).tbl [0x51] ∧
    (load [0x0250, 0x0100, 0x0241] (regs 0x4AD4 1 false false)).cnt = BitVec.ofNat 8 ([0x51] : List Byte).length := by
  unfold State.Loaded
  decide +kernel

theorem witness_FeedsWithoutClrContinueTheFrame :
    ((load (feedWords [0x50]) (regs 0x4AD4 254 false false)).Loaded (feedWords [0x50]) ∧
      (load (feedWords [0x50]) (regs 0x4AD4 254 false false)).cnt.toNat + ([0x50] : List Byte).length ≤ 255) ∧
    (load (feedWords [0x51] ++ feedWords [0x50]) State.reset).FrameStart ∧
    (load (feedWords [0x51] ++ feedWords [0x50]) State.reset).Loaded (feedWords [0x51] ++ feedWords [0x50]) := by
  unfold State.FrameStart State.Loaded
  decide +kernel

theorem witness_OverlongFrameKeepsItsFirst255Bytes :
    (load (feedWords (List.replicate 256 0xFF)) State.reset).FrameStart ∧
    (load (feedWords (List.replicate 256 0xFF)) State.reset).Loaded (feedWords (List.replicate 256 0xFF)) ∧
    255 < (List.replicate 256 (0xFF : Byte)).length :=
  ⟨⟨rfl, rfl, rfl, rfl, rfl⟩, ⟨rfl, rfl, rfl⟩, by decide +kernel⟩

theorem witness_CleanMeansNoErrorOccurred :
    (load [0x0241, 0x0000, 0x1200] State.reset).FrameStart ∧
    (load [0x0241, 0x0000, 0x1200] State.reset).Loaded [0x0241, 0x0000, 0x1200] ∧
    ∀ w ∈ ([0x0241, 0x0000, 0x1200] : List Word), isClr w = false := by
  refine ⟨⟨rfl, rfl, rfl, rfl, rfl⟩, ⟨rfl, rfl, rfl⟩, ?_⟩
  intro w hw
  fin_cases hw <;> decide

theorem witness_OnlyReadsMakeResponses :
    (load [0x1000, 0x1001, 0x0241, 0x1200] overfull).Loaded [0x1000, 0x1001, 0x0241, 0x1200] := by
  unfold State.Loaded
  decide

theorem witness_SchedulesDoNotChangeTheRun :
    ({ load [0x0100] State.reset with sched := [.deliver 0x0241, .core, .take, .deliver 0x1000] } : State).resetReq = false ∧
    Turn.assertReset ∉
      ({ load [0x0100] State.reset with sched := [.deliver 0x0241, .core, .take, .deliver 0x1000] } : State).sched ∧
    4 + 1 + (deliveredWords [.deliver 0x0241, .core, .take, .deliver 0x1000]).length ≤ 7 := by decide

theorem witness_SharedBlockChecksumsTheMergedStream :
    (load [0x0251, 0x0241, 0x0249] State.reset).FrameStart ∧
    isMerge (feedWords [0x51, 0x49]) (feedWords [0x41]) [0x0251, 0x0241, 0x0249] = true ∧
    (load [0x0251, 0x0241, 0x0249] State.reset).Loaded [0x0251, 0x0241, 0x0249] := by
  unfold State.FrameStart State.Loaded
  decide

theorem witness_FlagsDoNotInfluenceTheChecksum :
    (load [0x0241] (regs 0x1234 3 false false)).acc = (load [0x0241] (regs 0x1234 3 true true)).acc ∧
    (load [0x0241] (regs 0x1234 3 false false)).cnt = (load [0x0241] (regs 0x1234 3 true true)).cnt ∧
    (load [0x0241] (regs 0x1234 3 false false)).tbl = (load [0x0241] (regs 0x1234 3 true true)).tbl ∧
    (load [0x0241] (regs 0x1234 3 false false)).cmds = (load [0x0241] (regs 0x1234 3 true true)).cmds ∧
    (load [0x0241] (regs 0x1234 3 false false)).sched = (load [0x0241] (regs 0x1234 3 true true)).sched ∧
    (load [0x0241] (regs 0x1234 3 false false)).resetReq = (load [0x0241] (regs 0x1234 3 true true)).resetReq := by decide

theorem witness_BlocksAreIndependent :
    ((0 : Nat) ≠ 1) ∧ [load [0x0241] State.reset, load [0x0100] overfull][1]? = some (load [0x0100] overfull) ∧
    sharesTable defaultTbl [load [0x0241] State.reset, load [0x0100] overfull] = true ∧
    (∃ ss', replicaRun [0, 1, 1] [load [0x0241] State.reset, load [0x0100] overfull] = .next ss') :=
  ⟨by decide, rfl, by decide, _, rfl⟩

theorem witness_TheAssemblerEmitsOnlyLegalWords :
    (Stmt.feed 255).wf = true ∧ (∀ v, Stmt.feed 255 ≠ .word v) ∧
    parseLine (codes "FEED 255") = .ok (some (.feed 255)) ∧ 0x1001 ≤ 0xFFFF ∧
    assemble (codes "CLR\n.word 0x1001") = .ok [0x0100, 0x1001] :=
  ⟨by decide, (by intro v h; cases h), by decide +kernel, by decide, by decide +kernel⟩

theorem witness_CrcPseudoInstructionAnswersCrcRef :
    (Stmt.crc [0x51, 0x49, 0x44]).wf = true ∧
    (load (expand (.crc [0x51, 0x49, 0x44])) overfull).Loaded (expand (.crc [0x51, 0x49, 0x44])) := by
  unfold State.Loaded
  decide

end Sys2Proof.Tests
end

section
/-! The fields of STATUS (10_state.md R19), one lemma per field: its high byte is the counter (`highByte_statusWord`), and the
bits of its low byte are those of the two flags. -/

namespace Sys2Proof.Machine

/-- A field inside the low byte of a word is the same field of the word. -/
theorem extractLsb'_lowByte {start len : Nat} (h : start + len ≤ 8) (w : Word) :
    (lowByte w).extractLsb' start len = w.extractLsb' start len := by
  rw [lowByte, BitVec.extractLsb'_extractLsb'_of_le h]

theorem getLsbD_lowByte {i : Nat} (h : i < 8) (w : Word) : (lowByte w).getLsbD i = w.getLsbD i := by
  simp [lowByte, h]

@[simp] theorem statusWord_reserved (s : State) : (statusWord s).extractLsb' 2 6 = 0#6 := by
  rw [← extractLsb'_lowByte (by decide), lowByte_statusWord]
  cases s.ill <;> cases s.lovf <;> decide

@[simp] theorem statusWord_getLsbD_one (s : State) : (statusWord s).getLsbD 1 = s.ill := by
  rw [← getLsbD_lowByte (by decide), lowByte_statusWord]
  cases s.ill <;> cases s.lovf <;> decide

@[simp] theorem statusWord_getLsbD_zero (s : State) : (statusWord s).getLsbD 0 = s.lovf := by
  rw [← getLsbD_lowByte (by decide), lowByte_statusWord]
  cases s.ill <;> cases s.lovf <;> decide

theorem exec_rdstat (s : State) : exec .rdstat s = .next (respond (statusWord s) s) := rfl

/-- Settles O27, field by field. The reserved bits are 0 in the view of every state, so also in that of every state a
command leaves: no command can write them, as STATUS is a view and not a register (R14). -/
theorem statusIsCountThenZerosThenFlags : Obligations.StatusIsCountThenZerosThenFlags := by
  unfold Obligations.StatusIsCountThenZerosThenFlags
  refine ⟨fun s => ?fields, fun s => ?answer, ?reset, fun _ _ s' _ => statusWord_reserved s'⟩
  case fields =>
    exact ⟨highByte_statusWord s, statusWord_reserved s, statusWord_getLsbD_one s, statusWord_getLsbD_zero s⟩
  case answer => exact ⟨_, exec_rdstat s, respond_resp _ s⟩
  case reset => decide

end Sys2Proof.Machine
end

section
/-! The opcode map of 30_encoding.md R56 held against the decoder of R57: the rows are those of the commands, and a row's
mask and pattern are the decoder's test for it. -/

namespace Sys2Proof

open Machine

theorem mem_opcodeTable_iff (r : OpcodeRow) : r ∈ opcodeTable ↔ ∃ i : Instr, i.row = r := by
  constructor
  · intro h
    simp only [opcodeTable, List.mem_cons, List.not_mem_nil, or_false] at h
    obtain rfl | rfl | rfl | rfl | rfl := h
    exacts [⟨.clr, rfl⟩, ⟨.feed 0x00, rfl⟩, ⟨.rdres, rfl⟩, ⟨.rdraw, rfl⟩, ⟨.rdstat, rfl⟩]
  · rintro ⟨i, rfl⟩
    cases i with
    | clr => exact Laws.TableRow.clr.1
    | feed b => exact (Laws.TableRow.feed b).1
    | rdres => exact Laws.TableRow.rdres.1
    | rdraw => exact Laws.TableRow.rdraw.1
    | rdstat => exact Laws.TableRow.rdstat.1

/-- The mask of the four rows without an operand keeps the whole word. -/
theorem and_wordMask (w : Word) : w &&& 0xFFFF = w := BitVec.and_allOnes

/-- The mask of FEED's row keeps `OP` and drops `D8` (R54). -/
theorem and_opMask (w : Word) : w &&& 0xFF00 = joinBytes (opField w) 0x00 := by
  have hhigh : highByte (w &&& 0xFF00) = opField w := by
    rw [highByte, BitVec.extractLsb'_and]
    exact BitVec.and_allOnes
  have hlow : lowByte (w &&& 0xFF00) = 0x00 := by
    rw [lowByte, BitVec.extractLsb'_and]
    exact BitVec.and_zero
  rw [← joinBytes_highByte_lowByte (w &&& 0xFF00), hhigh, hlow]

theorem and_opMask_eq_feed_iff (w : Word) : w &&& 0xFF00 = 0x0200 ↔ opField w = 0x02 := by
  rw [and_opMask]
  constructor
  · intro h
    have hhigh := congrArg highByte h
    rwa [highByte_joinBytes] at hhigh
  · intro h
    rw [h]
    rfl

theorem decode_of_opField_feed {w : Word} (h : opField w = 0x02) : decode w = .command (.feed (d8Field w)) := by
  have hclr : w ≠ 0x0100 := by
    rintro rfl
    exact absurd h (by decide)
  rw [decode, if_neg hclr, if_pos h]

theorem and_rowMask_of_decode {w : Word} {i : Instr} (h : decode w = .command i) :
    w &&& i.row.mask = i.row.pattern := by
  obtain ⟨rfl, rfl⟩ | ⟨hop, rfl⟩ | ⟨rfl, rfl⟩ | ⟨rfl, rfl⟩ | ⟨rfl, rfl⟩ := decode_command_cases h
  case inr.inl => exact (and_opMask_eq_feed_iff w).2 hop
  all_goals rfl

theorem decode_of_and_rowMask {w : Word} {i : Instr} (h : w &&& i.row.mask = i.row.pattern) :
    ∃ j, decode w = .command j ∧ j.row = i.row := by
  cases i with
  | feed b => exact ⟨_, decode_of_opField_feed ((and_opMask_eq_feed_iff w).1 h), rfl⟩
  | _ =>
    obtain rfl := (and_wordMask w).symm.trans h
    exact ⟨_, rfl, rfl⟩

theorem decode_of_mem_opcodeTable {w : Word} {r : OpcodeRow} (hr : r ∈ opcodeTable) (hw : w &&& r.mask = r.pattern) :
    ∃ i, decode w = .command i ∧ i.row = r := by
  obtain ⟨i, rfl⟩ := (mem_opcodeTable_iff r).1 hr
  exact decode_of_and_rowMask hw

theorem decode_feed_operand {w : Word} {b : Byte} (h : decode w = .command (.feed b)) : b = d8Field w := by
  obtain ⟨-, hb⟩ : opField w = 0x02 ∧ b = d8Field w := by simpa using decode_command_cases h
  exact hb

theorem decode_command_or_illegal (w : Word) : (∃ i, decode w = .command i) ∨ decode w = .illegal w := by
  cases h : decode w with
  | command i => exact .inl ⟨i, rfl⟩
  | illegal v => rw [decode_illegal_self h]; exact .inr rfl

/-- Settles O1. The rows do not overlap because the decoder answers one command for a word, and a row that the word
matches is that command's. -/
theorem opcodeMapAgreesWithTheDecoder : Obligations.OpcodeMapAgreesWithTheDecoder := by
  unfold Obligations.OpcodeMapAgreesWithTheDecoder
  refine ⟨rfl, fun w i h => ⟨(mem_opcodeTable_iff _).2 ⟨i, rfl⟩, and_rowMask_of_decode h⟩,
    fun w r hr hw => decode_of_mem_opcodeTable hr hw, fun w b h => decode_feed_operand h, ?noOverlap⟩
  case noOverlap =>
    intro w r r' hr hr' hw hw'
    obtain ⟨i, hi, rfl⟩ := decode_of_mem_opcodeTable hr hw
    obtain ⟨j, hj, rfl⟩ := decode_of_mem_opcodeTable hr' hw'
    rw [hi] at hj
    cases hj
    rfl

end Sys2Proof
end

section
/-! No word executes as a no-op (30_encoding.md R59). -/

namespace Sys2Proof.Machine

/-- In such a state every word changes a register or the response channel, and not only the histories that the model keeps:
CLR changes ACC, FEED changes CNT, a read answers, an illegal word sets ILL. -/
theorem afterWord_ne_self {s : State} (hacc : s.acc ≠ 0x0000) (hcnt : s.cnt ≠ maxLen) (hill : s.ill = false)
    (hresp : s.resp = none) (w : Word) : afterWord w s ≠ s := by
  intro hself
  obtain ⟨-, h⟩ | ⟨b, -, hfull, -⟩ | ⟨b, -, -, h⟩ | ⟨i, v, -, -, h⟩ | ⟨v, -, h⟩ := afterWord_cases w s
  case inr.inl => exact hcnt hfull
  all_goals rw [h] at hself
  · exact hacc (congrArg State.acc hself).symm
  · simpa using congrArg State.cnt hself
  · simpa [hresp] using congrArg State.resp hself
  · simpa [hill] using congrArg State.ill hself

/-- Settles O5. One state serves every word: the one that FEED 0x41 leaves after reset. -/
theorem noWordIsANop : Obligations.NoWordIsANop := by
  unfold Obligations.NoWordIsANop
  refine ⟨by decide, decode_command_or_illegal, fun w => ?change⟩
  case change =>
    exact ⟨acceptByte 0x41 State.reset, _, perform_eq w _, afterWord_ne_self (by decide) (by decide) rfl rfl w⟩

end Sys2Proof.Machine
end

section
/-! The fixup of one byte (40_datapath.md R71 and R74): which values it raises, and that no value it answers is banned. -/

namespace Sys2Proof.Machine

theorem fix8_of_mem_banned {x : Byte} (h : x ∈ banned) : fix8 x = x + 1 := if_pos h

theorem fix8_of_not_mem_banned {x : Byte} (h : x ∉ banned) : fix8 x = x := if_neg h

theorem toNat_fix8_of_mem_banned {x : Byte} (h : x ∈ banned) : (fix8 x).toNat = x.toNat + 1 := by
  obtain rfl | rfl | rfl := (mem_banned x).1 h <;> rfl

/-- No two banned values are neighbours, so a raised value is not banned again. -/
theorem fix8_not_mem_banned (x : Byte) : fix8 x ∉ banned := by
  by_cases h : x ∈ banned
  · obtain rfl | rfl | rfl := (mem_banned x).1 h <;> decide
  · rwa [fix8_of_not_mem_banned h]

/-- Settles O10, by whether the byte is in BANNED. -/
theorem fixupRaisesExactlyTheBannedBytes : Obligations.FixupRaisesExactlyTheBannedBytes := by
  unfold Obligations.FixupRaisesExactlyTheBannedBytes
  refine ⟨rfl, rfl, rfl, fun x hx hy hz => fix8_of_not_mem_banned ?other,
    fun x hx => toNat_fix8_of_mem_banned ((mem_banned x).2 hx)⟩
  case other => exact (mem_banned x).not.2 (not_or.2 ⟨hx, not_or.2 ⟨hy, hz⟩⟩)

end Sys2Proof.Machine
end

section
/-! The fixup of a word (40_datapath.md R72 and R74): byte by byte, in bit fields and in numbers, and the command that
answers it. -/

namespace Sys2Proof.Machine

@[simp] theorem highByte_fix16 (a : Word) : highByte (fix16 a) = fix8 (highByte a) := highByte_joinBytes _ _

@[simp] theorem lowByte_fix16 (a : Word) : lowByte (fix16 a) = fix8 (lowByte a) := lowByte_joinBytes _ _

theorem toNat_highByte (w : Word) : (highByte w).toNat = w.toNat / 256 := by
  have hlt : w.toNat / 256 < 256 := by omega
  simp [highByte, Nat.shiftRight_eq_div_pow, Nat.mod_eq_of_lt hlt]

theorem toNat_lowByte (w : Word) : (lowByte w).toNat = w.toNat % 256 := by
  simp [lowByte]

theorem toNat_joinBytes (h l : Byte) : (joinBytes h l).toNat = 256 * h.toNat + l.toNat := by
  have hhigh := toNat_highByte (joinBytes h l)
  have hlow := toNat_lowByte (joinBytes h l)
  rw [highByte_joinBytes] at hhigh
  rw [lowByte_joinBytes] at hlow
  rw [hhigh, hlow, Nat.div_add_mod]

theorem ofNat_div_eq_highByte (w : Word) : BitVec.ofNat 8 (w.toNat / 256) = highByte w := by
  rw [← toNat_highByte, BitVec.ofNat_toNat, BitVec.setWidth_eq]

theorem ofNat_mod_eq_lowByte (w : Word) : BitVec.ofNat 8 (w.toNat % 256) = lowByte w := by
  rw [← toNat_lowByte, BitVec.ofNat_toNat, BitVec.setWidth_eq]

theorem exec_rdres (s : State) : exec .rdres s = .next (respond (fix16 s.acc) s) := rfl

/-- Settles O13: either byte of a result is a value of the fixup of one byte, and no such value is banned. -/
theorem resultHasNoBannedByte : Obligations.ResultHasNoBannedByte := by
  unfold Obligations.ResultHasNoBannedByte
  intro a
  have hhigh : highByte (fix16 a) ∉ banned := highByte_fix16 a ▸ fix8_not_mem_banned _
  have hlow : lowByte (fix16 a) ∉ banned := lowByte_fix16 a ▸ fix8_not_mem_banned _
  simpa [mem_banned, highByte, lowByte] using And.intro hhigh hlow

/-- Settles O11: the bytes of the accumulator are its quotient and remainder by 256, and the result joins their fixups. -/
theorem resultIsTheFixupOfEachByte : Obligations.ResultIsTheFixupOfEachByte := by
  unfold Obligations.ResultIsTheFixupOfEachByte
  refine ⟨fun a => ?bytes, fun s => ⟨_, exec_rdres s, respond_resp _ s⟩, by decide⟩
  case bytes => rw [fix16, toNat_joinBytes, ofNat_div_eq_highByte, ofNat_mod_eq_lowByte]

end Sys2Proof.Machine
end

section
/-! The empty frame (40_datapath.md R81): the reference function of no bytes, and a RDRES right after a CLR. -/

namespace Sys2Proof.Machine

theorem fix16_zero : fix16 0x0000 = 0x0000 := by decide

/-- The reference function reads no byte of the empty frame, whatever bytes there are. -/
theorem crcRef_zero (t : NibbleTable) (bytes : List Byte) : crcRef t bytes 0 = .ok 0x0000 := by
  rw [crcRef_of_enough t (Nat.zero_le _)]
  exact congrArg Except.ok fix16_zero

theorem afterNext_clr (s : State) :
    afterNext 0x0100 s = startFrame { s with cmds := s.cmds.tail, resp := none } := rfl

theorem afterNext_rdres (s : State) :
    afterNext 0x1000 s = respond (fix16 s.acc) { s with cmds := s.cmds.tail, resp := none } := rfl

/-- Settles O47: CLR leaves ACC 0 whatever it held, and RDRES answers the fixup of ACC. -/
theorem emptyFrameAnswersZero : Obligations.EmptyFrameAnswersZero := by
  unfold Obligations.EmptyFrameAnswersZero
  refine ⟨fun t => crcRef_zero t [], fix16_zero, fun s hs => ?answer⟩
  case answer =>
    obtain ⟨hrun, -⟩ := runSteps_of_loaded (ws := [0x0100, 0x1000]) (vs := []) hs
    refine ⟨_, hrun, ?_⟩
    rw [afterWords_cons, afterWords_cons, afterWords_nil, afterNext_rdres, respond_resp, afterNext_clr,
      startFrame_acc, fix16_zero]

end Sys2Proof.Machine
end

section
/-! What a command can do (41_frame_commands.md, 42_readout_commands.md), said once for `exec`: the effect of each
command, FEED's two with their condition. -/

namespace Sys2Proof.Machine

theorem exec_clr (s : State) : exec .clr s = .next (startFrame s) := rfl

theorem exec_feed_of_full {s : State} (b : Byte) (h : s.cnt = maxLen) :
    exec (.feed b) s = .next (raiseError .lengthOverflow s) := if_pos h

theorem exec_feed_of_room {s : State} (b : Byte) (h : s.cnt ≠ maxLen) :
    exec (.feed b) s = .next (acceptByte b s) := if_neg h

/-- The inversion of `exec`, as `afterWord_cases` is that of a command word. -/
theorem exec_cases {i : Instr} {s s' : State} (h : exec i s = .next s') :
    (i = .clr ∧ s' = startFrame s) ∨
    (∃ b, i = .feed b ∧ s.cnt = maxLen ∧ s' = raiseError .lengthOverflow s) ∨
    (∃ b, i = .feed b ∧ s.cnt ≠ maxLen ∧ s' = acceptByte b s) ∨
    (i = .rdres ∧ s' = respond (fix16 s.acc) s) ∨
    (i = .rdraw ∧ s' = respond s.acc s) ∨
    (i = .rdstat ∧ s' = respond (statusWord s) s) := by
  cases i with
  | clr => cases h; simp
  | feed b =>
    by_cases hfull : s.cnt = maxLen
    · cases (exec_feed_of_full b hfull).symm.trans h; simp [hfull]
    · cases (exec_feed_of_room b hfull).symm.trans h; simp [hfull]
  | rdres => cases h; simp
  | rdraw => cases h; simp
  | rdstat => cases h; simp

/-- The flags are sticky under every command but CLR (10_state.md R18): a FEED can only set LOVF, the others leave both. -/
theorem exec_keeps_set_flags {i : Instr} {s s' : State} (h : exec i s = .next s') (hclr : i ≠ .clr) :
    (s.lovf = true → s'.lovf = true) ∧ (s.ill = true → s'.ill = true) := by
  obtain ⟨hi, -⟩ | ⟨b, -, -, rfl⟩ | ⟨b, -, -, rfl⟩ | ⟨-, rfl⟩ | ⟨-, rfl⟩ | ⟨-, rfl⟩ := exec_cases h
  case inl => exact absurd hi hclr
  case inr.inl => exact ⟨fun _ => raiseError_lengthOverflow_lovf s, id⟩
  all_goals exact ⟨id, id⟩

end Sys2Proof.Machine
end

section
/-! CLR (41_frame_commands.md R83): its word, the start of a frame, and STATUS after it. -/

namespace Sys2Proof.Machine

/-- Only D8 = 0 makes a word with CLR's `OP` a command (30_encoding.md R57). -/
theorem decode_clr_op_with_operand {w : Word} (hop : opField w = 0x01) (hd8 : d8Field w ≠ 0x00) :
    decode w = .illegal w := by
  obtain ⟨i, hi⟩ | hill := decode_command_or_illegal w
  · obtain ⟨rfl, -⟩ | ⟨hfeed, -⟩ | ⟨rfl, -⟩ | ⟨rfl, -⟩ | ⟨rfl, -⟩ := decode_command_cases hi
    case inl => exact absurd rfl hd8
    case inr.inl => exact absurd (hop.symm.trans hfeed) (by decide)
    all_goals exact absurd hop (by decide)
  · exact hill

theorem startFrame_startFrame (s : State) : startFrame (startFrame s) = startFrame s := rfl

theorem startFrame_reset : startFrame State.reset = State.reset := rfl

theorem statusWord_startFrame (s : State) : statusWord (startFrame s) = 0x0000 := by
  have hreset : statusWord (startFrame s) = statusWord State.reset := statusWord_congr rfl rfl rfl
  rw [hreset]
  decide

/-- Settles O21. That only CLR clears a flag is the contrapositive of `exec_keeps_set_flags`. -/
theorem clrStartsAFrame : Obligations.ClrStartsAFrame := by
  unfold Obligations.ClrStartsAFrame
  refine ⟨by decide, fun w => decode_clr_op_with_operand, exec_clr, ?idempotent, ?atReset, ?onlyClrClears, ?status⟩
  case idempotent =>
    intro s s' h
    cases h
    rw [exec_clr, startFrame_startFrame]
  case atReset => rw [exec_clr, startFrame_reset]
  case onlyClrClears =>
    intro i s s' h hcleared
    by_contra hclr
    obtain ⟨hlovf, hill⟩ := exec_keeps_set_flags h hclr
    obtain ⟨hset, hclear⟩ | ⟨hset, hclear⟩ := hcleared
    · simp [hlovf hset] at hclear
    · simp [hill hset] at hclear
  case status =>
    intro s
    refine ⟨_, _, exec_clr s, exec_rdstat _, ?_⟩
    rw [respond_resp, statusWord_startFrame]

end Sys2Proof.Machine
end

section
/-! The two errors of the block (60_exceptions.md R92, R93): an illegal word raises IllegalCommand, a FEED on a full frame
raises LengthOverflow, and no other command raises one. -/

namespace Sys2Proof.Machine

theorem perform_of_illegal {w v : Word} (h : decode w = .illegal v) (s : State) :
    perform w s = .next (raiseError .illegalCommand s) := by
  rw [perform, h]
  rfl

/-- No legal command writes ILL but CLR, which clears it (10_state.md R18). -/
theorem exec_ill {i : Instr} {s s' : State} (h : exec i s = .next s') : s'.ill = s.ill ∨ s'.ill = false := by
  obtain ⟨-, rfl⟩ | ⟨b, -, -, rfl⟩ | ⟨b, -, -, rfl⟩ | ⟨-, rfl⟩ | ⟨-, rfl⟩ | ⟨-, rfl⟩ := exec_cases h
  case inl => exact .inr (startFrame_ill s)
  all_goals exact .inl rfl

/-- Only a FEED on a full frame is an error, so a command that adds to the history is such a FEED. -/
theorem exec_raises_only_lengthOverflow {i : Instr} {s s' : State} (h : exec i s = .next s')
    (hlog : s'.errLog ≠ s.errLog) :
    (∃ b, i = .feed b) ∧ s.cnt = maxLen ∧ s' = raiseError .lengthOverflow s := by
  obtain ⟨-, rfl⟩ | ⟨b, hi, hfull, hs'⟩ | ⟨b, -, -, rfl⟩ | ⟨-, rfl⟩ | ⟨-, rfl⟩ | ⟨-, rfl⟩ := exec_cases h
  case inr.inl => exact ⟨⟨b, hi⟩, hfull, hs'⟩
  all_goals exact absurd rfl hlog

/-- Settles O28: an illegal word is `raiseError`, whose flag is ILL, and no legal command sets that flag. -/
theorem illegalWordSetsOnlyIll : Obligations.IllegalWordSetsOnlyIll := by
  unfold Obligations.IllegalWordSetsOnlyIll
  refine ⟨fun w s h => perform_of_illegal h s, fun i s s' h hset => ?notRaised, by decide, rfl⟩
  case notRaised =>
    obtain hkept | hcleared := exec_ill h
    · rwa [hkept] at hset
    · simp [hcleared] at hset

/-- Settles O23. A refused FEED leaves the frame full (`raiseError_cnt`), so the next FEED is refused too, and it leaves ACC
as it was, which is what RDRES answers from. -/
theorem fullFrameRefusesAFeed : Obligations.FullFrameRefusesAFeed := by
  unfold Obligations.FullFrameRefusesAFeed
  refine ⟨fun s b hfull => exec_feed_of_full b hfull, fun i s s' h hlog => ?onlyFeed, fun s b b' hfull => ?again,
    fun s b hfull => ?answer, rfl⟩
  case onlyFeed =>
    obtain ⟨hfeed, hfull, rfl⟩ := exec_raises_only_lengthOverflow h hlog
    exact ⟨hfeed, hfull, raiseError_errLog _ s⟩
  case again =>
    have hstill : (raiseError .lengthOverflow s).cnt = 255 := by rw [raiseError_cnt, hfull]
    refine ⟨_, _, exec_feed_of_full b hfull, exec_feed_of_full b' hstill, ?_⟩
    simp [hfull]
  case answer =>
    refine ⟨_, _, exec_feed_of_full b hfull, exec_rdres _, ?_⟩
    rw [respond_resp, raiseError_acc]

end Sys2Proof.Machine
end

section
/-! Encoding and decoding are inverse (30_encoding.md R57), so the legal words are the encodings of the commands (R58). -/

namespace Sys2Proof

open Machine

/-- FEED's word holds its `OP` above its byte (30_encoding.md R54). -/
theorem encode_feed (b : Byte) : encode (.feed b) = joinBytes 0x02 b := rfl

@[simp] theorem opField_joinBytes (h l : Byte) : opField (joinBytes h l) = h := highByte_joinBytes h l

@[simp] theorem d8Field_joinBytes (h l : Byte) : d8Field (joinBytes h l) = l := lowByte_joinBytes h l

@[simp] theorem joinBytes_opField_d8Field (w : Word) : joinBytes (opField w) (d8Field w) = w :=
  joinBytes_highByte_lowByte w

/-- Settles O2. The words without an operand are the decoder's own tests; FEED's word has its `OP` and gives its byte
back. -/
theorem decodeOfEncodeIsTheCommand : Obligations.DecodeOfEncodeIsTheCommand := by
  unfold Obligations.DecodeOfEncodeIsTheCommand
  intro i
  cases i with
  | feed b => rw [encode_feed, decode_of_opField_feed (opField_joinBytes _ b), d8Field_joinBytes]
  | _ => rfl

@[simp] theorem decode_encode (i : Instr) : decode (encode i) = .command i := decodeOfEncodeIsTheCommand i

/-- Settles O3, by the decoder's tests. -/
theorem encodeOfDecodeIsTheWord : Obligations.EncodeOfDecodeIsTheWord := by
  unfold Obligations.EncodeOfDecodeIsTheWord
  intro w i h
  obtain ⟨rfl, rfl⟩ | ⟨hop, rfl⟩ | ⟨rfl, rfl⟩ | ⟨rfl, rfl⟩ | ⟨rfl, rfl⟩ := decode_command_cases h
  case inr.inl => rw [encode_feed, ← hop, joinBytes_opField_d8Field]
  all_goals rfl

/-- A word decodes to a command exactly when it is the command's encoding. -/
theorem decode_eq_command_iff {w : Word} {i : Instr} : decode w = .command i ↔ w = encode i := by
  refine ⟨fun h => (encodeOfDecodeIsTheWord w i h).symm, ?_⟩
  rintro rfl
  exact decode_encode i

theorem encode_injective : Function.Injective encode := by
  intro i j h
  have hdecode := decode_encode i
  rw [h, decode_encode] at hdecode
  cases hdecode
  rfl

theorem decode_eq_illegal_iff {w : Word} : decode w = .illegal w ↔ ¬ ∃ i, decode w = .command i := by
  constructor
  · rintro h ⟨i, hi⟩
    cases h.symm.trans hi
  · exact (decode_command_or_illegal w).resolve_left

/-- The legal words by their fields (30_encoding.md R58). -/
theorem legal_iff_fields (w : Word) :
    (∃ i, decode w = .command i) ↔
      opField w = 0x02 ∨ (opField w ∈ [0x01, 0x10, 0x11, 0x12] ∧ d8Field w = 0x00) := by
  constructor
  · rintro ⟨i, h⟩
    obtain ⟨rfl, -⟩ | ⟨hop, -⟩ | ⟨rfl, -⟩ | ⟨rfl, -⟩ | ⟨rfl, -⟩ := decode_command_cases h
    case inr.inl => exact .inl hop
    all_goals exact .inr (by decide)
  · rintro (hop | ⟨hop, hd8⟩)
    · exact ⟨_, decode_of_opField_feed hop⟩
    · rw [← joinBytes_opField_d8Field w, hd8]
      simp only [List.mem_cons, List.not_mem_nil, or_false] at hop
      obtain hop | hop | hop | hop := hop <;> rw [hop]
      exacts [⟨.clr, rfl⟩, ⟨.rdres, rfl⟩, ⟨.rdraw, rfl⟩, ⟨.rdstat, rfl⟩]

/-- Every command, once. -/
def allInstrs : List Instr :=
  [.clr, .rdres, .rdraw, .rdstat] ++ (List.finRange 256).map fun k => .feed (BitVec.ofFin k)

theorem mem_allInstrs (i : Instr) : i ∈ allInstrs := by
  cases i <;> simp [allInstrs]

theorem nodup_allInstrs : allInstrs.Nodup := by
  have hfeed : Function.Injective fun k : Fin 256 => Instr.feed (BitVec.ofFin k) := by
    intro j k h
    simpa using h
  refine List.nodup_append.2 ⟨by decide, (List.nodup_finRange 256).map hfeed, ?apart⟩
  case apart =>
    intro i hi j hj
    obtain ⟨k, -, rfl⟩ := List.mem_map.1 hj
    rintro rfl
    simp at hi

theorem length_allInstrs : allInstrs.length = 260 := by simp [allInstrs]

/-- Settles O4. The legal words are the encodings of `allInstrs`, and so 260; an illegal word is performed as
`raiseError`, which does not look at it. -/
theorem illegalWordsAreExactlyTheRest : Obligations.IllegalWordsAreExactlyTheRest := by
  unfold Obligations.IllegalWordsAreExactlyTheRest
  refine ⟨fun w => ?fields, decode_command_or_illegal,
    ⟨allInstrs.map encode, nodup_allInstrs.map encode_injective, ?count, ?rest, fun w => ?members⟩,
    fun v w s hv hw => ?alike⟩
  case fields =>
    have hfeed : opField w = 0x02 → opField w ∉ [0x01, 0x10, 0x11, 0x12] := by
      intro h
      rw [h]
      decide
    rw [decode_eq_illegal_iff, legal_iff_fields]
    simp only [opField, d8Field, List.mem_cons, List.not_mem_nil, or_false] at hfeed ⊢
    tauto
  case count => rw [List.length_map, length_allInstrs]
  case rest => simp [length_allInstrs]
  case members => simp [mem_allInstrs, decode_eq_command_iff, eq_comm]
  case alike => rw [perform_of_illegal hv, perform_of_illegal hw]

/-- Settles O6, word by word. -/
theorem sampleWordsDecode : Obligations.SampleWordsDecode := by
  unfold Obligations.SampleWordsDecode
  decide

end Sys2Proof
end

section
/-! The machine's invariant (`State.Inv`): the reset state meets it and every step keeps it. -/

namespace Sys2Proof.Machine

/-- The invariant speaks of the registers and the histories, and of the waiting response only where there is one. -/
theorem State.Inv.of_same_registers {s t : State} (h : s.Inv) (hacc : t.acc = s.acc) (hcnt : t.cnt = s.cnt)
    (hlovf : t.lovf = s.lovf) (hill : t.ill = s.ill) (hlog : t.errLog = s.errLog) (hout : t.out = s.out)
    (hresp : t.resp = s.resp ∨ t.resp = none) : t.Inv where
  lovf_full := by rw [hlovf, hcnt]; exact h.lovf_full
  lovf_logged := by rw [hlovf, hlog]; exact h.lovf_logged
  ill_logged := by rw [hill, hlog]; exact h.ill_logged
  empty_start := by rw [hcnt, hacc]; exact h.empty_start
  resp_last := by
    intro v hv
    obtain hsame | hgone := hresp
    · rw [hout]
      exact h.resp_last v (hsame ▸ hv)
    · simp [hgone] at hv

theorem startFrame_inv {s : State} (h : s.Inv) : (startFrame s).Inv where
  lovf_full := by simp
  lovf_logged := by simp
  ill_logged := by simp
  empty_start := by simp
  resp_last := h.resp_last

/-- LOVF goes up on a full frame only, and the event that sets a flag is logged with it. -/
theorem raiseError_lengthOverflow_inv {s : State} (h : s.Inv) (hfull : s.cnt = maxLen) :
    (raiseError .lengthOverflow s).Inv where
  lovf_full := fun _ => hfull
  lovf_logged := by simp
  ill_logged := fun hill => List.mem_append_left _ (h.ill_logged hill)
  empty_start := h.empty_start
  resp_last := h.resp_last

theorem raiseError_illegalCommand_inv {s : State} (h : s.Inv) : (raiseError .illegalCommand s).Inv where
  lovf_full := h.lovf_full
  lovf_logged := fun hlovf => List.mem_append_left _ (h.lovf_logged hlovf)
  ill_logged := by simp
  empty_start := h.empty_start
  resp_last := h.resp_last

/-- With room in the frame LOVF is clear, and the counter does not wrap to the empty frame's 0. -/
theorem acceptByte_inv {s : State} (h : s.Inv) (hroom : s.cnt ≠ maxLen) (b : Byte) : (acceptByte b s).Inv where
  lovf_full := fun hlovf => absurd (h.lovf_full hlovf) hroom
  lovf_logged := h.lovf_logged
  ill_logged := h.ill_logged
  empty_start := by
    intro hzero
    refine absurd ?_ hroom
    rw [acceptByte_cnt] at hzero
    rw [maxLen]
    bv_omega
  resp_last := h.resp_last

theorem respond_inv {s : State} (h : s.Inv) (v : Word) : (respond v s).Inv where
  lovf_full := h.lovf_full
  lovf_logged := h.lovf_logged
  ill_logged := h.ill_logged
  empty_start := h.empty_start
  resp_last := by simp

theorem afterWord_inv {s : State} (h : s.Inv) (w : Word) : (afterWord w s).Inv := by
  obtain ⟨-, hw⟩ | ⟨b, -, hfull, hw⟩ | ⟨b, -, hroom, hw⟩ | ⟨i, v, -, -, hw⟩ | ⟨v, -, hw⟩ := afterWord_cases w s <;> rw [hw]
  · exact startFrame_inv h
  · exact raiseError_lengthOverflow_inv h hfull
  · exact acceptByte_inv h hroom b
  · exact respond_inv h v
  · exact raiseError_illegalCommand_inv h

theorem applyReset_inv (s : State) : (applyReset s).Inv where
  lovf_full := by simp
  lovf_logged := by simp
  ill_logged := by simp
  empty_start := by simp
  resp_last := by simp

/-- Settles O37: a turn that leaves the registers alone keeps them, a reset starts afresh, and a word is performed at a
state that has only lost its waiting response. -/
theorem everyStepKeepsTheInvariant : Obligations.EveryStepKeepsTheInvariant := by
  unfold Obligations.EveryStepKeepsTheInvariant
  intro s s' hinv hstep
  obtain ⟨t, ht, hacc, hcnt, hlovf, hill, -, hlog, hout, hresp⟩ | ⟨-, ht⟩ | ⟨w, ws, -, -, ht⟩ := step_cases s <;>
    cases hstep.symm.trans ht
  · exact hinv.of_same_registers hacc hcnt hlovf hill hlog hout hresp
  · exact applyReset_inv _
  · have htaken : State.Inv { s with cmds := ws, resp := none, sched := s.sched.tail } :=
      hinv.of_same_registers rfl rfl rfl rfl rfl rfl (.inr rfl)
    exact afterWord_inv htaken w

/-- Settles O38: the reset state is what a reset leaves. -/
theorem resetMeetsTheInvariant : Obligations.ResetMeetsTheInvariant := applyReset_inv State.reset

end Sys2Proof.Machine
end

section
/-! The datapath over any table: NibStep, ByteStep and Fold in numbers and equations (40_datapath.md R67 to R70), the
reference function (R78, R94), and the corner cases of the fixup (R73, R76). -/

namespace Sys2Proof.Machine

theorem toNat_topNibble (acc : Word) : (topNibble acc).toNat = acc.toNat / 4096 := by
  have hlt : acc.toNat / 4096 < 16 := by omega
  simp [topNibble, Nat.shiftRight_eq_div_pow, Nat.mod_eq_of_lt hlt]

theorem tblRead_eq_getD (t : NibbleTable) (i : Nibble) : tblRead t i = t.toList.getD i.toNat 0 := by
  have hlt : i.toNat < 16 := i.isLt
  simp [tblRead, List.getD_eq_getElem?_getD, hlt]

theorem toNat_nibStep (t : NibbleTable) (acc : Word) (n : Nibble) :
    (nibStep t acc n).toNat =
      (acc.toNat * 16 % 65536) ^^^ (t.toList.getD ((acc.toNat / 4096) ^^^ n.toNat) 0).toNat := by
  rw [nibStep, BitVec.toNat_xor, tblRead_eq_getD, BitVec.toNat_xor, toNat_topNibble, BitVec.toNat_shiftLeft,
    Nat.shiftLeft_eq]

theorem ofNat_div_eq_highNibble (b : Byte) : BitVec.ofNat 4 (b.toNat / 16) = highNibble b := by
  apply BitVec.eq_of_toNat_eq
  simp [highNibble, Nat.shiftRight_eq_div_pow]

theorem ofNat_mod_eq_lowNibble (b : Byte) : BitVec.ofNat 4 (b.toNat % 16) = lowNibble b := by
  apply BitVec.eq_of_toNat_eq
  simp [lowNibble]

theorem byteStep_eq_nibbles (t : NibbleTable) (acc : Word) (b : Byte) :
    byteStep t acc b =
      nibStep t (nibStep t acc (BitVec.ofNat 4 (b.toNat / 16))) (BitVec.ofNat 4 (b.toNat % 16)) := by
  rw [ofNat_div_eq_highNibble, ofNat_mod_eq_lowNibble, byteStep]

/-- Settles O8: the nibbles are the byte's quotient and remainder by 16. -/
theorem byteStepTakesTheHighNibbleFirst : Obligations.ByteStepTakesTheHighNibbleFirst := by
  unfold Obligations.ByteStepTakesTheHighNibbleFirst
  exact ⟨byteStep_eq_nibbles, by decide⟩

theorem fold_append (t : NibbleTable) (acc : Word) (s u : List Byte) :
    fold t acc (s ++ u) = fold t (fold t acc s) u := by
  induction s generalizing acc with
  | nil => rfl
  | cons b s ih => exact ih _

/-- One byte more at the end of the sequence. -/
theorem raw_concat (t : NibbleTable) (s : List Byte) (b : Byte) : raw t (s ++ [b]) = byteStep t (raw t s) b :=
  fold_append t init s [b]

/-- Settles O9. A leading zero byte leaves the start value of the default table as it is. -/
theorem foldTakesTheBytesInOrder : Obligations.FoldTakesTheBytesInOrder := by
  unfold Obligations.FoldTakesTheBytesInOrder
  refine ⟨fold_nil, fold_cons, fun _ _ => rfl, fold_append, fun s => ?leadingZero, by decide⟩
  case leadingZero =>
    have hzero : byteStep defaultTbl init 0x00 = init := by decide
    rw [raw, fold_cons, hzero, raw]

/-- A sequence that fits the counter, with any bytes after it. -/
theorem crcRef_append (t : NibbleTable) {s : List Byte} (h : s.length ≤ 255) (tail : List Byte) :
    crcRef t (s ++ tail) (BitVec.ofNat 8 s.length) = .ok (fix16 (raw t s)) := by
  have hlen : (BitVec.ofNat 8 s.length).toNat = s.length := by
    rw [BitVec.toNat_ofNat]
    omega
  rw [crcRef_of_enough t (by simp [hlen]), hlen, List.take_left]

theorem crcRef_length (t : NibbleTable) {s : List Byte} (h : s.length ≤ 255) :
    crcRef t s (BitVec.ofNat 8 s.length) = .ok (fix16 (raw t s)) := by
  simpa using crcRef_append t h []

/-- Settles O20. Two sequences that agree on their first `n` bytes have the same first `n` bytes to fold. -/
theorem crcRefReadsTheFirstLengthBytes : Obligations.CrcRefReadsTheFirstLengthBytes := by
  unfold Obligations.CrcRefReadsTheFirstLengthBytes
  refine ⟨fun t _ _ => crcRef_of_short t, fun t _ _ => crcRef_of_enough t, crcRef_zero,
    fun t _ tail h => crcRef_append t h tail, fun t b b' n hb hb' hagree => ?dependence, fun _ => rfl⟩
  case dependence =>
    have htake : b.take n.toNat = b'.take n.toNat := by
      apply List.ext_getElem?
      intro k
      by_cases hk : k < n.toNat
      · rw [List.getElem?_take_of_lt hk, List.getElem?_take_of_lt hk, hagree k hk]
      · simp [hk]
    rw [crcRef_of_enough t hb, crcRef_of_enough t hb', htake]

/-- The fixup leaves its own answers alone. -/
theorem fix8_fix8 (x : Byte) : fix8 (fix8 x) = fix8 x := fix8_of_not_mem_banned (fix8_not_mem_banned x)

theorem fix16_fix16 (a : Word) : fix16 (fix16 a) = fix16 a := by
  rw [fix16, highByte_fix16, lowByte_fix16, fix8_fix8, fix8_fix8, fix16]

/-- The answers of the fixup are the words without a banned byte, and each is its own answer. -/
theorem exists_fix16_eq_iff (r : Word) : (∃ a, fix16 a = r) ↔ highByte r ∉ banned ∧ lowByte r ∉ banned := by
  constructor
  · rintro ⟨a, rfl⟩
    rw [highByte_fix16, lowByte_fix16]
    exact ⟨fix8_not_mem_banned _, fix8_not_mem_banned _⟩
  · rintro ⟨hhigh, hlow⟩
    exact ⟨r, by rw [fix16, fix8_of_not_mem_banned hhigh, fix8_of_not_mem_banned hlow, joinBytes_highByte_lowByte]⟩

/-- Settles O12: no answer of the fixup is banned, so each is its own answer, and there are no other answers. -/
theorem fixupCornerCases : Obligations.FixupCornerCases := by
  unfold Obligations.FixupCornerCases
  exact ⟨fix8_not_mem_banned, fun a => ⟨highByte_fix16 a, lowByte_fix16 a⟩, fix16_fix16, by decide,
    exists_fix16_eq_iff, by decide, fun s => ⟨_, exec_rdres s, respond_acc _ s⟩⟩

/-- A banned byte and its fixup differ in bits 0 and 1 at most. -/
theorem xor_fix8_of_mem_banned {x : Byte} (h : x ∈ banned) : x ^^^ fix8 x ∈ [0x00#8, 0x01#8, 0x03#8] := by
  obtain rfl | rfl | rfl := (mem_banned x).1 h <;> decide

/-- Two bytes with one fixup are the same byte, or one of them is banned and raised to the other. -/
theorem xor_of_fix8_eq {x y : Byte} (h : fix8 x = fix8 y) : x ^^^ y ∈ [0x00#8, 0x01#8, 0x03#8] := by
  by_cases hx : x ∈ banned <;> by_cases hy : y ∈ banned
  · have hxy : x = y := by simpa [fix8_of_mem_banned hx, fix8_of_mem_banned hy] using h
    simp [hxy]
  · rw [← fix8_of_not_mem_banned hy, ← h]
    exact xor_fix8_of_mem_banned hx
  · rw [← fix8_of_not_mem_banned hx, h, BitVec.xor_comm]
    exact xor_fix8_of_mem_banned hy
  · have hxy : x = y := by rwa [fix8_of_not_mem_banned hx, fix8_of_not_mem_banned hy] at h
    simp [hxy]

/-- By how much two raw values with one result can differ (40_datapath.md R76). -/
def collisionWords : List Word := [0x0001, 0x0003, 0x0100, 0x0300, 0x0101, 0x0103, 0x0301, 0x0303]

theorem joinBytes_xor (h l h' l' : Byte) : joinBytes h l ^^^ joinBytes h' l' = joinBytes (h ^^^ h') (l ^^^ l') := by
  rw [← joinBytes_highByte_lowByte (joinBytes h l ^^^ joinBytes h' l')]
  have hhigh : highByte (joinBytes h l ^^^ joinBytes h' l') = h ^^^ h' := by
    rw [highByte, BitVec.extractLsb'_xor]
    exact congrArg₂ _ (highByte_joinBytes h l) (highByte_joinBytes h' l')
  have hlow : lowByte (joinBytes h l ^^^ joinBytes h' l') = l ^^^ l' := by
    rw [lowByte, BitVec.extractLsb'_xor]
    exact congrArg₂ _ (lowByte_joinBytes h l) (lowByte_joinBytes h' l')
  rw [hhigh, hlow]

/-- The bytes collide each on its own, so the difference joins two of the differences of one byte. -/
theorem xor_of_fix16_eq {a b : Word} (h : fix16 a = fix16 b) : a ^^^ b ∈ 0x0000 :: collisionWords := by
  have hhigh : fix8 (highByte a) = fix8 (highByte b) := by simpa using congrArg highByte h
  have hlow : fix8 (lowByte a) = fix8 (lowByte b) := by simpa using congrArg lowByte h
  rw [← joinBytes_highByte_lowByte a, ← joinBytes_highByte_lowByte b, joinBytes_xor]
  have joined : ∀ x ∈ [0x00#8, 0x01#8, 0x03#8], ∀ y ∈ [0x00#8, 0x01#8, 0x03#8],
      joinBytes x y ∈ 0x0000 :: collisionWords := by decide
  exact joined _ (xor_of_fix8_eq hhigh) _ (xor_of_fix8_eq hlow)

/-- Settles O14: the eight words are the differences of `xor_of_fix16_eq` other than 0. -/
theorem collisionsDifferByEightWords : Obligations.CollisionsDifferByEightWords := by
  unfold Obligations.CollisionsDifferByEightWords
  intro a b h hne
  have hxor : a ^^^ b ≠ 0x0000 := fun hzero => hne (BitVec.xor_eq_zero_iff.1 hzero)
  exact (List.mem_cons.1 (xor_of_fix16_eq h)).resolve_left hxor

end Sys2Proof.Machine
end

section
/-! The bitwise CRC with POLY (10_state.md R23; 40_datapath.md R77): one bit of it is linear over XOR and loses nothing. -/

namespace Sys2Proof.Machine

theorem bitShift_eq (c : Word) : bitShift c = c <<< 1 ^^^ (if c.getLsbD 15 then poly else 0x0000) := by
  unfold bitShift
  split <;> simp

theorem xor_xor_xor_comm {n : Nat} (a b c d : BitVec n) : a ^^^ b ^^^ (c ^^^ d) = a ^^^ c ^^^ (b ^^^ d) := by
  rw [BitVec.xor_assoc, ← BitVec.xor_assoc b, BitVec.xor_comm b, BitVec.xor_assoc c, ← BitVec.xor_assoc]

theorem bitShift_xor (a b : Word) : bitShift (a ^^^ b) = bitShift a ^^^ bitShift b := by
  simp only [bitShift_eq, BitVec.getLsbD_xor, BitVec.shiftLeft_xor_distrib]
  have hpoly : (if (a.getLsbD 15 ^^ b.getLsbD 15) then poly else 0x0000) =
      (if a.getLsbD 15 then poly else 0x0000) ^^^ (if b.getLsbD 15 then poly else 0x0000) := by
    cases a.getLsbD 15 <;> cases b.getLsbD 15 <;> decide
  rw [hpoly, xor_xor_xor_comm]

theorem getLsbD_top (c : Word) : c.getLsbD 15 = decide (32768 ≤ c.toNat) :=
  (BitVec.msb_eq_getLsbD_last c).symm.trans (BitVec.msb_eq_decide c)

/-- A word whose top bit is clear is only shifted. -/
theorem bitShift_of_lt {c : Word} (h : c.toNat < 32768) : bitShift c = c <<< 1 := by
  rw [bitShift, getLsbD_top, if_neg (by simpa using h)]

/-- POLY has bit 0 set, which the shift clears: the answer's bit 0 says whether the top bit was set. -/
theorem bitShift_getLsbD_zero (c : Word) : (bitShift c).getLsbD 0 = c.getLsbD 15 := by
  unfold bitShift
  split <;> simp_all [poly]

theorem bitShift_eq_zero {c : Word} (h : bitShift c = 0x0000) : c = 0x0000 := by
  have htop : c.getLsbD 15 = false := by
    rw [← bitShift_getLsbD_zero, h]
    rfl
  have hlt : c.toNat < 32768 := by
    simpa only [getLsbD_top, decide_eq_false_iff_not, Nat.not_le] using htop
  rw [bitShift_of_lt hlt] at h
  bv_omega

theorem bitShift_injective : Function.Injective bitShift := by
  intro a b h
  refine BitVec.xor_eq_zero_iff.1 (bitShift_eq_zero ?_)
  rw [bitShift_xor, h]
  exact BitVec.xor_self

theorem bitShifts_eq_iterate (k : Nat) (c : Word) : bitShifts k c = bitShift^[k] c := by
  induction k generalizing c with
  | zero => rfl
  | succ k ih => exact ih _

theorem bitShifts_add (j k : Nat) (c : Word) : bitShifts (j + k) c = bitShifts j (bitShifts k c) := by
  simp only [bitShifts_eq_iterate, Function.iterate_add_apply]

theorem bitShifts_injective (k : Nat) : Function.Injective (bitShifts k) := by
  rw [funext (bitShifts_eq_iterate k)]
  exact bitShift_injective.iterate k

theorem bitShifts_xor (k : Nat) (a b : Word) : bitShifts k (a ^^^ b) = bitShifts k a ^^^ bitShifts k b := by
  induction k generalizing a b with
  | zero => rfl
  | succ k ih => rw [bitShifts, bitShift_xor, ih, bitShifts, bitShifts]

theorem bitShifts_zero (k : Nat) : bitShifts k 0x0000 = 0x0000 := by
  induction k with
  | zero => rfl
  | succ k ih => exact ih

theorem bitShifts_eq_zero_iff {k : Nat} {c : Word} : bitShifts k c = 0x0000 ↔ c = 0x0000 := by
  rw [← bitShifts_zero k, (bitShifts_injective k).eq_iff, bitShifts_zero]

/-- As long as no set bit reaches the top, the bits are only shifted. -/
theorem bitShifts_of_lt {k : Nat} {c : Word} (h : c.toNat * 2 ^ k < 65536) : bitShifts k c = c <<< k := by
  induction k generalizing c with
  | zero => simp [bitShifts]
  | succ k ih =>
    rw [Nat.pow_succ', ← Nat.mul_assoc] at h
    have hpos : 0 < 2 ^ k := Nat.two_pow_pos k
    have hlt : c.toNat < 32768 := by nlinarith
    have hdouble : (c <<< 1).toNat = c.toNat * 2 := by
      rw [BitVec.toNat_shiftLeft, Nat.shiftLeft_eq]
      omega
    rw [bitShifts, bitShift_of_lt hlt, ih (by rwa [hdouble]), ← BitVec.shiftLeft_add, Nat.add_comm]

end Sys2Proof.Machine
end

section
/-! The default table (10_state.md R22, R23): its datapath is the bitwise CRC with POLY, four bits for a nibble and eight for
a byte (40_datapath.md R77), and is linear over XOR (R76) because one bit of that CRC is. -/

namespace Sys2Proof.Machine

/-- Settles O15, entry by entry. -/
theorem defaultTableIsDerivedFromThePolynomial : Obligations.DefaultTableIsDerivedFromThePolynomial := by
  unfold Obligations.DefaultTableIsDerivedFromThePolynomial
  decide +kernel

theorem tblRead_default (i : Nibble) : tblRead defaultTbl i = bitShifts 4 (i.zeroExtend 16 <<< 12) :=
  (defaultTableIsDerivedFromThePolynomial.1 i).1

/-- The accumulator is its top nibble and the twelve bits that the shift keeps. -/
theorem xor_topNibble (acc : Word) :
    ((topNibble acc).zeroExtend 16 <<< 12) ^^^ (acc.extractLsb' 0 12).zeroExtend 16 = acc := by
  apply BitVec.eq_of_getLsbD_eq
  intro i hi
  by_cases h : i < 12
  · simp [topNibble, h, hi]
  · have hlt : i - 12 < 4 := by omega
    have hsum : 12 + (i - 12) = i := by omega
    simp [topNibble, h, hi, hlt, hsum]

theorem shiftLeft_keeps_low (acc : Word) : (acc.extractLsb' 0 12).zeroExtend 16 <<< 4 = acc <<< 4 := by
  apply BitVec.eq_of_getLsbD_eq
  intro i hi
  have h12 : i - 4 < 12 := by omega
  have h16 : i - 4 < 16 := by omega
  simp [h12, h16]

theorem shifted_nibble_xor (n n' : Nibble) :
    (n ^^^ n').zeroExtend 16 <<< 12 = (n.zeroExtend 16 <<< 12 : Word) ^^^ (n'.zeroExtend 16 <<< 12) := by
  simp [BitVec.shiftLeft_xor_distrib]

/-- NibStep is four bits of the bitwise CRC. The index takes in the top nibble, whose four bits are the table entry; the
bits below do not reach the top and are shifted. -/
theorem nibStep_default (acc : Word) (n : Nibble) :
    nibStep defaultTbl acc n = bitShifts 4 (acc ^^^ (n.zeroExtend 16 <<< 12)) := by
  have hlow : ((acc.extractLsb' 0 12).zeroExtend 16).toNat * 2 ^ 4 < 65536 := by
    have h12 := (acc.extractLsb' 0 12).isLt
    rw [BitVec.toNat_setWidth]
    omega
  calc nibStep defaultTbl acc n
    _ = (acc.extractLsb' 0 12).zeroExtend 16 <<< 4 ^^^ bitShifts 4 ((topNibble acc ^^^ n).zeroExtend 16 <<< 12) := by
      rw [nibStep, tblRead_default, shiftLeft_keeps_low]
    _ = bitShifts 4 ((acc.extractLsb' 0 12).zeroExtend 16 ^^^ (topNibble acc ^^^ n).zeroExtend 16 <<< 12) := by
      rw [← bitShifts_of_lt hlow, ← bitShifts_xor]
    _ = bitShifts 4 ((((topNibble acc).zeroExtend 16 <<< 12) ^^^ (acc.extractLsb' 0 12).zeroExtend 16) ^^^
          (n.zeroExtend 16 <<< 12)) := by
      rw [shifted_nibble_xor, ← BitVec.xor_assoc, BitVec.xor_comm ((acc.extractLsb' 0 12).zeroExtend 16)]
    _ = bitShifts 4 (acc ^^^ (n.zeroExtend 16 <<< 12)) := by rw [xor_topNibble]

theorem zeroExtend_byte_eq_nibbles (b : Byte) :
    b.zeroExtend 16 <<< 8 = ((highNibble b).zeroExtend 16 <<< 12) ^^^ ((lowNibble b).zeroExtend 16 <<< 8) := by
  revert b
  decide

/-- The low nibble waits below the top for the four bits of the high one. -/
theorem bitShifts_lowNibble (n : Nibble) : bitShifts 4 (n.zeroExtend 16 <<< 8) = n.zeroExtend 16 <<< 12 := by
  revert n
  decide

theorem byteStep_default (acc : Word) (b : Byte) : byteStep defaultTbl acc b = bitwiseByte acc b := by
  rw [byteStep, nibStep_default, nibStep_default, ← bitShifts_lowNibble (lowNibble b), ← bitShifts_xor, ← bitShifts_add,
    BitVec.xor_assoc, ← zeroExtend_byte_eq_nibbles, bitwiseByte]

theorem fold_default (acc : Word) (s : List Byte) : fold defaultTbl acc s = s.foldl bitwiseByte acc := by
  induction s generalizing acc with
  | nil => rfl
  | cons b s ih => rw [fold_cons, byteStep_default, ih, List.foldl_cons]

/-- Settles O18, byte by byte from the same start value. -/
theorem nibbleAlgorithmIsTheBitwiseCrc : Obligations.NibbleAlgorithmIsTheBitwiseCrc := by
  unfold Obligations.NibbleAlgorithmIsTheBitwiseCrc
  exact ⟨fold_default init, by decide⟩

theorem nibStep_default_xor (a a' : Word) (n n' : Nibble) :
    nibStep defaultTbl (a ^^^ a') (n ^^^ n') = nibStep defaultTbl a n ^^^ nibStep defaultTbl a' n' := by
  simp only [nibStep_default, ← bitShifts_xor, shifted_nibble_xor, xor_xor_xor_comm]

theorem byteStep_default_xor (a a' : Word) (b b' : Byte) :
    byteStep defaultTbl (a ^^^ a') (b ^^^ b') = byteStep defaultTbl a b ^^^ byteStep defaultTbl a' b' := by
  have hhigh : highNibble (b ^^^ b') = highNibble b ^^^ highNibble b' := BitVec.extractLsb'_xor ..
  have hlow : lowNibble (b ^^^ b') = lowNibble b ^^^ lowNibble b' := BitVec.extractLsb'_xor ..
  rw [byteStep, hhigh, hlow, nibStep_default_xor, nibStep_default_xor, byteStep, byteStep]

theorem fold_default_xor (a a' : Word) {s u : List Byte} (h : s.length = u.length) :
    fold defaultTbl (a ^^^ a') (List.zipWith (· ^^^ ·) s u) = fold defaultTbl a s ^^^ fold defaultTbl a' u := by
  induction s generalizing a a' u with
  | nil =>
    obtain rfl : u = [] := List.length_eq_zero_iff.1 h.symm
    rfl
  | cons b s ih =>
    cases u with
    | nil => simp at h
    | cons b' u =>
      rw [List.zipWith_cons_cons, fold_cons, byteStep_default_xor, ih _ _ (Nat.succ.inj h), fold_cons, fold_cons]

/-- Settles O16. Raw starts from 0, which is the XOR of two such starts. -/
theorem rawIsLinearForTheDefaultTable : Obligations.RawIsLinearForTheDefaultTable := by
  unfold Obligations.RawIsLinearForTheDefaultTable
  exact ⟨nibStep_default_xor, fun s u h => fold_default_xor init init h⟩

/-- The top nibble in place, and nothing below it. -/
theorem eq_shifted_nibble_iff (acc : Word) (n : Nibble) :
    acc = n.zeroExtend 16 <<< 12 ↔ acc.toNat % 4096 = 0 ∧ n.toNat = acc.toNat / 4096 := by
  have hn := n.isLt
  rw [← BitVec.toNat_inj, BitVec.toNat_shiftLeft, BitVec.toNat_setWidth, Nat.shiftLeft_eq]
  omega

/-- Settles O7. The four bits of the bitwise CRC lose nothing, so only 0 goes to 0. -/
theorem nibStepIndexesBeforeItShifts : Obligations.NibStepIndexesBeforeItShifts := by
  unfold Obligations.NibStepIndexesBeforeItShifts
  refine ⟨toNat_nibStep, fun acc n => ?zero, by decide⟩
  case zero =>
    rw [nibStep_default, bitShifts_eq_zero_iff, ← eq_shifted_nibble_iff]
    exact BitVec.xor_eq_zero_iff

end Sys2Proof.Machine
end

section
/-! What the default table's CRC tells apart (40_datapath.md R76; 95_test_vectors.md V6), and the residue of a sent frame
(42_readout_commands.md R90). -/

namespace Sys2Proof.Machine

theorem joinBytes_eq_xor (h l : Byte) : joinBytes h l = (h.zeroExtend 16 <<< 8) ^^^ l.zeroExtend 16 := by
  apply BitVec.eq_of_getLsbD_eq
  intro i hi
  by_cases h8 : i < 8
  · simp [joinBytes, h8, hi]
  · simp [joinBytes, h8, hi, BitVec.getLsbD_of_ge l i (by omega)]

/-- A byte in the low half of the accumulator reaches the high half in eight bits. -/
theorem bitShifts_lowByte (l : Byte) : bitShifts 8 (l.zeroExtend 16) = l.zeroExtend 16 <<< 8 := by
  have hl := l.isLt
  refine bitShifts_of_lt ?_
  rw [BitVec.toNat_setWidth]
  omega

/-- Two bytes are folded as the word that joins them. -/
theorem fold_default_two_bytes (acc : Word) (h l : Byte) :
    fold defaultTbl acc [h, l] = bitShifts 16 (acc ^^^ joinBytes h l) := by
  rw [fold_default, List.foldl_cons, List.foldl_cons, List.foldl_nil, bitwiseByte, bitwiseByte, ← bitShifts_lowByte l,
    ← bitShifts_xor, ← bitShifts_add, BitVec.xor_assoc, ← joinBytes_eq_xor]

theorem joinBytes_inj {h l h' l' : Byte} (heq : joinBytes h l = joinBytes h' l') : h = h' ∧ l = l' :=
  ⟨by simpa using congrArg highByte heq, by simpa using congrArg lowByte heq⟩

/-- Settles O19: sixteen bits of the bitwise CRC lose nothing of the sixteen bits of the frame. -/
theorem rawTellsTwoByteFramesApart : Obligations.RawTellsTwoByteFramesApart := by
  unfold Obligations.RawTellsTwoByteFramesApart
  intro a b c d h
  rw [raw, raw, fold_default_two_bytes, fold_default_two_bytes, (bitShifts_injective 16).eq_iff] at h
  exact joinBytes_inj ((BitVec.xor_right_inj init).1 h)

theorem residue_default_eq_zero_iff (p : List Byte) (h l : Byte) :
    residue defaultTbl p h l = 0x0000 ↔ raw defaultTbl p = joinBytes h l := by
  rw [residue, raw, fold_append, fold_default_two_bytes, bitShifts_eq_zero_iff]
  exact BitVec.xor_eq_zero_iff

theorem payloadAccepted_iff (t : NibbleTable) (p : List Byte) (h l : Byte) :
    payloadAccepted t p h l = true ↔ h = highByte (fix16 (raw t p)) ∧ l = lowByte (fix16 (raw t p)) := by
  rw [payloadAccepted, beq_iff_eq]
  constructor
  · intro hres
    simp [hres]
  · rintro ⟨rfl, rfl⟩
    exact (joinBytes_highByte_lowByte _).symm

/-- Settles O58: the residue is zero exactly when the sent bytes are those of the raw value. -/
theorem residueIsZeroOnlyWithoutAFixup : Obligations.ResidueIsZeroOnlyWithoutAFixup := by
  unfold Obligations.ResidueIsZeroOnlyWithoutAFixup
  refine fun p => ⟨?residue, fun t => payloadAccepted_iff t p⟩
  case residue => rw [residue_default_eq_zero_iff, joinBytes_highByte_lowByte, eq_comm]

/-- A difference in the accumulator goes through the bytes after it as if they were 0. -/
theorem fold_default_xor_of_acc (a a' : Word) (s : List Byte) :
    fold defaultTbl a s ^^^ fold defaultTbl a' s = bitShifts (8 * s.length) (a ^^^ a') := by
  induction s generalizing a a' with
  | nil => rfl
  | cons b s ih =>
    have hbyte : byteStep defaultTbl a b ^^^ byteStep defaultTbl a' b = bitShifts 8 (a ^^^ a') := by
      rw [← byteStep_default_xor, BitVec.xor_self, byteStep_default, bitwiseByte]
      exact congrArg _ BitVec.xor_zero
    rw [fold_cons, fold_cons, ih, hbyte, ← bitShifts_add]
    rfl

/-- Bit `j` of a byte is bit `8 + j` of the accumulator, and so `8 + j` bits of the CRC of 1. -/
theorem byteStep_default_bit {j : Nat} (hj : j < 8) (acc : Word) (b : Byte) :
    byteStep defaultTbl acc (b ^^^ (1#8 <<< j)) ^^^ byteStep defaultTbl acc b = bitShifts j 0x1021 := by
  have hbit : byteStep defaultTbl 0x0000 (1#8 <<< j) = bitShifts j 0x1021 := by
    have hall : ∀ j < 8, byteStep defaultTbl 0x0000 (1#8 <<< j) = bitShifts j 0x1021 := by decide
    exact hall j hj
  have hbyte : b ^^^ (1#8 <<< j) ^^^ b = 1#8 <<< j := by
    rw [BitVec.xor_comm, ← BitVec.xor_assoc, BitVec.xor_self, BitVec.zero_xor]
  rw [← hbit, ← byteStep_default_xor, BitVec.xor_self, hbyte]
  rfl

theorem raw_append_cons (t : NibbleTable) (s u : List Byte) (b : Byte) :
    raw t (s ++ b :: u) = fold t (byteStep t (raw t s) b) u := fold_append t init s (b :: u)

/-- The difference that one bit makes: the CRC of 1, run on for the bits below it. -/
theorem raw_default_xor_of_bit {s : List Byte} {i j : Nat} (hi : i < s.length) (hj : j < 8) :
    raw defaultTbl (s.set i (s.getD i 0 ^^^ (1#8 <<< j))) ^^^ raw defaultTbl s =
      bitShifts (8 * (s.length - (i + 1)) + j) 0x1021 := by
  have hget : s.getD i 0 = s[i] := by simp [List.getD_eq_getElem?_getD, hi]
  have hraw : raw defaultTbl s =
      fold defaultTbl (byteStep defaultTbl (raw defaultTbl (s.take i)) s[i]) (s.drop (i + 1)) := by
    rw [← raw_append_cons, List.cons_getElem_drop_succ, List.take_append_drop]
  rw [List.set_eq_take_append_cons_drop, if_pos hi, hget, raw_append_cons, hraw, fold_default_xor_of_acc,
    byteStep_default_bit hj, ← bitShifts_add, List.length_drop]

/-- The fixup hides only the two lowest bits of each byte. -/
theorem and_mask_of_collision {c : Word} (h : c ∈ 0x0000 :: collisionWords) : c &&& 0xFCFC = 0x0000 := by
  have hall : ((0x0000 :: collisionWords).all fun c => c &&& 0xFCFC == 0x0000) = true := by decide
  exact beq_iff_eq.1 (List.all_eq_true.1 hall c h)

/-- In the 2040 bits of 255 bytes, the most that a frame holds, the CRC of 1 always has one of the other bits set. -/
theorem bitShifts_not_collision {m : Nat} (hm : m < 2040) : bitShifts m 0x1021 ∉ 0x0000 :: collisionWords := by
  have hall : ((List.iterate bitShift 0x1021 2040).all fun c => c &&& 0xFCFC != 0x0000) = true := by decide +kernel
  have hmem : bitShift^[m] 0x1021 ∈ List.iterate bitShift 0x1021 2040 := List.mem_iterate.2 ⟨m, hm, rfl⟩
  rw [bitShifts_eq_iterate]
  exact fun h => bne_iff_ne.1 (List.all_eq_true.1 hall _ hmem) (and_mask_of_collision h)

/-- Settles O17. Two frames with one result would differ, raw, by 0 or one of the eight words of R76. -/
theorem everySingleBitChangeIsSeen : Obligations.EverySingleBitChangeIsSeen := by
  unfold Obligations.EverySingleBitChangeIsSeen
  intro s i j hlen hi hj
  have hres : fix16 (raw defaultTbl (s.set i (s.getD i 0 ^^^ (1#8 <<< j)))) ≠ fix16 (raw defaultTbl s) := by
    intro heq
    have hmem := xor_of_fix16_eq heq
    rw [raw_default_xor_of_bit hi hj] at hmem
    exact bitShifts_not_collision (by omega) hmem
  exact ⟨fun heq => hres (congrArg fix16 heq), hres⟩

end Sys2Proof.Machine
end

section
/-! The five commands (41_frame_commands.md, 42_readout_commands.md): what each leaves, what it may write to (10_state.md,
section 9), and which words are idempotent (20_memory.md, section 3). -/

namespace Sys2Proof.Machine

theorem exec_rdraw (s : State) : exec .rdraw s = .next (respond s.acc s) := rfl

theorem toNat_cnt_succ {c : Byte} (h : c ≠ maxLen) : (c + 1).toNat = c.toNat + 1 := by
  rw [maxLen] at h
  bv_omega

/-- Settles O22: with room in the frame FEED is `acceptByte`, and the nibbles are the byte's quotient and remainder by 16. -/
theorem feedConsumesAByte : Obligations.FeedConsumesAByte := by
  unfold Obligations.FeedConsumesAByte
  intro s b hroom
  refine ⟨?_, toNat_cnt_succ hroom⟩
  rw [exec_feed_of_room b hroom, acceptByte, byteStep_eq_nibbles]

/-- Settles O24. The read leaves ACC raw, so a second read answers the same and a FEED goes on from it. -/
theorem rdresAnswersTheResult : Obligations.RdresAnswersTheResult := by
  unfold Obligations.RdresAnswersTheResult
  exact ⟨exec_rdres, fun s => ⟨_, _, exec_rdres s, exec_rdres _, rfl⟩,
    fun s b hroom => ⟨_, _, exec_rdres s, exec_feed_of_room b hroom, rfl⟩⟩

/-- Settles O25: RDRAW is `respond` with ACC as it is. -/
theorem rdrawAnswersTheAccumulator : Obligations.RdrawAnswersTheAccumulator := exec_rdraw

theorem statusWord_of_registers {s : State} {c : Byte} {l i : Bool} (hc : s.cnt = c) (hl : s.lovf = l) (hi : s.ill = i) :
    statusWord s = joinBytes c ((flagBit i <<< 1) ||| flagBit l) := by
  rw [statusWord, hc, hl, hi]

/-- Settles O26: RDSTAT is `respond` with STATUS, which the three registers fix. -/
theorem rdstatAnswersStatus : Obligations.RdstatAnswersStatus := by
  unfold Obligations.RdstatAnswersStatus
  exact ⟨exec_rdstat, fun s hc hl hi => statusWord_of_registers hc hl hi,
    fun s hc hl hi => statusWord_of_registers hc hl hi, fun s hc hl hi => statusWord_of_registers hc hl hi⟩

theorem exec_next (i : Instr) (s : State) : ∃ s', exec i s = .next s' :=
  ⟨_, by rw [← perform_eq (encode i) s, perform, decode_encode]⟩

/-- Settles O29, effect by effect: CLR and an accepted FEED write ACC and CNT, CLR and a refused FEED the flags, the reads
the response and nothing else. -/
theorem commandsWriteOnlyWhatTheMatrixSays : Obligations.CommandsWriteOnlyWhatTheMatrixSays := by
  unfold Obligations.CommandsWriteOnlyWhatTheMatrixSays
  intro i s
  obtain ⟨s', h⟩ := exec_next i s
  refine ⟨s', h, ?_⟩
  obtain ⟨rfl, rfl⟩ | ⟨b, rfl, hfull, rfl⟩ | ⟨b, rfl, hroom, rfl⟩ | ⟨rfl, rfl⟩ | ⟨rfl, rfl⟩ | ⟨rfl, rfl⟩ := exec_cases h
  case inr.inl =>
    have hcnt : s.cnt = 255 := hfull
    simp [hcnt]
  case inr.inr.inl =>
    have hcnt : s.cnt ≠ 255 := hroom
    simpa using ⟨fun _ => hcnt, hcnt⟩
  all_goals simp

/-- A read, a CLR or an illegal word performed again writes the same registers and the same answer. -/
theorem afterWord_idempotent {w : Word} (hfeed : ∀ b, decode w ≠ .command (.feed b)) (s : State) :
    (afterWord w (afterWord w s)).acc = (afterWord w s).acc ∧ (afterWord w (afterWord w s)).cnt = (afterWord w s).cnt ∧
    (afterWord w (afterWord w s)).lovf = (afterWord w s).lovf ∧ (afterWord w (afterWord w s)).ill = (afterWord w s).ill ∧
    (afterWord w (afterWord w s)).resp = (afterWord w s).resp := by
  unfold afterWord
  cases hd : decode w with
  | illegal v => simp
  | command i =>
    cases i with
    | feed b => exact absurd hd (hfeed b)
    | rdstat => simp [statusWord]
    | _ => simp

/-- Settles O30. The first two FEEDs after a reset count two bytes. -/
theorem onlyFeedIsNotIdempotent : Obligations.OnlyFeedIsNotIdempotent := by
  unfold Obligations.OnlyFeedIsNotIdempotent
  refine ⟨fun w s hfeed => ⟨_, _, perform_eq w s, perform_eq w _, afterWord_idempotent hfeed s⟩, fun b => ?feed⟩
  case feed =>
    have hfirst : State.reset.cnt ≠ maxLen := by decide
    have hsecond : (acceptByte b State.reset).cnt ≠ maxLen := by
      rw [acceptByte_cnt]
      decide
    refine ⟨_, _, _, exec_feed_of_room b hfirst, exec_feed_of_room b hsecond, ?_⟩
    rw [acceptByte_cnt, acceptByte_cnt]
    decide

end Sys2Proof.Machine
end

section
/-! One step, by whose turn it is (60_exceptions.md R91, R97, R108; 70_reset_and_hazards.md R111, R114). -/

namespace Sys2Proof.Machine

/-- In the CORE's turn, with no reset waiting, the oldest waiting word is performed. -/
theorem step_of_waiting_word {s : State} {w : Word} {ws : List Word} (hcore : s.sched = [] ∨ s.sched.head? = some .core)
    (hreset : s.resetReq = false) (hcmds : s.cmds = w :: ws) :
    step s = perform w { s with cmds := ws, resp := none, sched := s.sched.tail } := by
  have hnext : nextCommand { s with sched := s.sched.tail } =
      some (w, { s with cmds := ws, resp := none, sched := s.sched.tail }) := nextCommand_cons hcmds
  rw [step_eq_coreTurn hcore, coreTurn, if_neg (by simp [hreset]), hnext]

theorem step_of_waiting_reset {s : State} (hcore : s.sched = [] ∨ s.sched.head? = some .core) (hreset : s.resetReq = true) :
    step s = .next (applyReset { s with sched := s.sched.tail }) := by
  rw [step_eq_coreTurn hcore, coreTurn, if_pos hreset]

theorem perform_of_command {w : Word} {i : Instr} (h : decode w = .command i) (s : State) : perform w s = exec i s := by
  rw [perform, h]

/-- A word placed by the host is the whole word, as every command is one of 16 bits (log 12). -/
theorem tableWord_toNat (w : Word) : tableWord 16 w.toNat = w := by
  rw [tableWord, Nat.mod_eq_of_lt w.isLt, BitVec.ofNat_toNat, BitVec.setWidth_eq]

theorem step_withFetchWord (s : State) (w : Word) :
    step (s.withFetchWord 16 w.toNat) = perform w { s with resp := none, resetReq := false } := by
  rw [State.withFetchWord, tableWord_toNat, step_placeCommand]

/-- Settles O31: either way the step performs the word, and performing a legal word is `exec`. -/
theorem stepRunsTheDecodedCommand : Obligations.StepRunsTheDecodedCommand := by
  unfold Obligations.StepRunsTheDecodedCommand
  refine ⟨fun s w ws i hcore hreset hcmds hdecode => ?waiting, fun s w i hdecode => ?placed⟩
  case waiting => rw [step_of_waiting_word hcore hreset hcmds, perform_of_command hdecode]
  case placed => rw [step_withFetchWord, perform_of_command hdecode]

/-- Settles O32: the step performs the word, and performing an illegal word is `raiseError`. -/
theorem stepOnAnIllegalWordGoesOn : Obligations.StepOnAnIllegalWordGoesOn := by
  unfold Obligations.StepOnAnIllegalWordGoesOn
  intro s w ws hcore hreset hcmds hdecode
  rw [step_of_waiting_word hcore hreset hcmds, perform_of_illegal hdecode]
  rfl

/-- Settles O33: the CORE's turn looks at the reset before it looks at the channel. -/
theorem resetGoesBeforeWaitingCommands : Obligations.ResetGoesBeforeWaitingCommands := by
  unfold Obligations.ResetGoesBeforeWaitingCommands
  exact fun s hcore hreset => step_of_waiting_reset hcore hreset

/-- Settles O34, turn by turn. -/
theorem hostTurnsTouchOnlyTheChannels : Obligations.HostTurnsTouchOnlyTheChannels := by
  unfold Obligations.HostTurnsTouchOnlyTheChannels
  exact fun s ts w => ⟨step_eq_of_deliver, step_eq_of_take, step_eq_of_assertReset⟩

theorem finished_iff (s : State) : finished s = true ↔ s.sched = [] ∧ s.cmds = [] ∧ s.resetReq = false := by
  simp [finished, and_assoc]

theorem step_of_finished {s : State} (h : finished s = true) : step s = .next s := by
  obtain ⟨hsched, hcmds, hreset⟩ := (finished_iff s).1 h
  rw [step_eq_of_nil hsched, coreTurn, if_neg (by simp [hreset]), nextCommand_nil hcmds]

/-- Settles O35: with nothing planned the CORE moves, and it has neither a reset nor a word. -/
theorem idleBlockHoldsItsState : Obligations.IdleBlockHoldsItsState := by
  unfold Obligations.IdleBlockHoldsItsState
  exact ⟨fun s => step_of_finished, step_of_finished (by decide)⟩

/-- Settles O39: the values stand in `State.reset`, and 0 is its own fixup. -/
theorem resetValues : Obligations.ResetValues := by
  unfold Obligations.ResetValues
  exact ⟨rfl, rfl, rfl, rfl, by decide, rfl, rfl, rfl, _, exec_rdres _, congrArg some fix16_zero⟩

theorem startFrame_frameStart {s : State} (h : s.resp = none) : (startFrame s).FrameStart := ⟨rfl, rfl, rfl, rfl, h⟩

theorem applyReset_frameStart (s : State) : (applyReset s).FrameStart := ⟨rfl, rfl, rfl, rfl, rfl⟩

/-- Settles O40. Both are the start of a frame; taking CLR's word, as reset does too, empties the response channel. -/
theorem clrAndResetEstablishFrameStart : Obligations.ClrAndResetEstablishFrameStart := by
  unfold Obligations.ClrAndResetEstablishFrameStart
  refine ⟨fun s ws hloaded => ?clr, fun s hsched hreset => ?reset, ?powerUp, applyReset_frameStart State.reset⟩
  case clr =>
    obtain ⟨hstep, hcmds, -, -⟩ := step_of_loaded hloaded
    exact ⟨_, hstep, startFrame_frameStart rfl, hcmds, rfl⟩
  case reset => exact ⟨_, step_of_waiting_reset (.inl hsched) hreset, applyReset_frameStart _, rfl, rfl⟩
  case powerUp => exact ⟨_, step_withFetchWord State.powerUp 0x0100, startFrame_frameStart rfl⟩

end Sys2Proof.Machine
end

section
/-! Steps and runs as functions of the state: no state stops the block (60_exceptions.md R91), and no run writes the table
(10_state.md R21). -/

namespace Sys2Proof.Machine

theorem step_next (s : State) : ∃ s', step s = .next s' := by
  obtain ⟨t, ht, -⟩ | ⟨-, ht⟩ | ⟨w, ws, -, -, ht⟩ := step_cases s
  all_goals exact ⟨_, ht⟩

/-- The state that a step answers. -/
def stepped (s : State) : State :=
  match step s with
  | .next s' => s'
  | .fault _ => s
  | .refused _ => s

theorem step_eq_stepped (s : State) : step s = .next (stepped s) := by
  obtain ⟨s', h⟩ := step_next s
  rw [stepped, h]

theorem stepped_of_step {s s' : State} (h : step s = .next s') : stepped s = s' := by
  rw [stepped, h]

theorem runSteps_eq_iterate (k : Nat) (s : State) : runSteps k s = .next (stepped^[k] s) := by
  induction k generalizing s with
  | zero => rfl
  | succ k ih => rw [runSteps_succ k (step_eq_stepped s), ih, Function.iterate_succ_apply]

/-- Settles O36: a step is a function of the state, and so is a run. -/
theorem noStateStopsTheBlock : Obligations.NoStateStopsTheBlock := by
  unfold Obligations.NoStateStopsTheBlock
  exact ⟨step_next, fun w s => ⟨_, perform_eq w s⟩, fun k s => ⟨_, runSteps_eq_iterate k s⟩⟩

theorem stepped_tbl (s : State) : (stepped s).tbl = s.tbl := by
  obtain ⟨t, ht, -, -, -, -, htbl, -⟩ | ⟨-, ht⟩ | ⟨w, ws, -, -, ht⟩ := step_cases s <;> rw [stepped_of_step ht]
  · exact htbl
  · exact applyReset_tbl _
  · obtain ⟨-, -, -, htbl⟩ := afterWord_keeps w { s with cmds := ws, resp := none, sched := s.sched.tail }
    exact htbl

/-- Settles O41, over a run by induction on its steps. -/
theorem tableIsNeverWritten : Obligations.TableIsNeverWritten := by
  unfold Obligations.TableIsNeverWritten
  refine ⟨fun s s' h => ?step, fun k s s' h => ?run⟩
  case step => rw [← stepped_of_step h, stepped_tbl]
  case run =>
    cases (runSteps_eq_iterate k s).symm.trans h
    exact Function.Iterate.rec (fun u : State => u.tbl = s.tbl) rfl (fun u hu => (stepped_tbl u).trans hu) k

end Sys2Proof.Machine
end

section
/-! What can be observed of one step (`observe`, 70_reset_and_hazards.md R121), said once as six effects with their causes;
the safety of the flags, the registers and the histories follows effect by effect (10_state.md R15 to R18; 60_exceptions.md R101). -/

namespace Sys2Proof.Machine

/-- The effect of a step on what is observed: none, the start of a frame, a refused FEED, an accepted FEED, a read, or an
illegal word. -/
theorem observe_step_cases {s s' : State} (h : step s = .next s') :
    (observe s' = observe s) ∨
    ((s.resetReq = true ∨ ∃ ws, s.cmds = 0x0100 :: ws) ∧
      observe s' = { observe s with acc := 0x0000, cnt := 0x00, lovf := false, ill := false }) ∨
    (∃ b ws, s.cmds = encode (.feed b) :: ws ∧ s.cnt = maxLen ∧
      observe s' = { observe s with lovf := true, errLog := s.errLog ++ [.lengthOverflow] }) ∨
    (∃ b ws, s.cmds = encode (.feed b) :: ws ∧ s.cnt ≠ maxLen ∧
      observe s' = { observe s with acc := byteStep s.tbl s.acc b, cnt := s.cnt + 1 }) ∨
    (∃ v, observe s' = { observe s with out := s.out ++ [v] }) ∨
    (∃ w ws, s.cmds = w :: ws ∧ decode w = .illegal w ∧
      observe s' = { observe s with ill := true, errLog := s.errLog ++ [.illegalCommand] }) := by
  obtain ⟨t, ht, hacc, hcnt, hlovf, hill, -, hlog, hout, -⟩ | ⟨hreset, ht⟩ | ⟨w, ws, -, hcmds, ht⟩ := step_cases s <;>
    cases h.symm.trans ht
  case inl => exact .inl (by simp only [observe, hacc, hcnt, hlovf, hill, hlog, hout])
  case inr.inl => exact .inr (.inl ⟨.inl hreset, rfl⟩)
  case inr.inr =>
    obtain ⟨hd, hw⟩ | ⟨b, hd, hfull, hw⟩ | ⟨b, hd, hroom, hw⟩ | ⟨i, v, -, -, hw⟩ | ⟨v, hd, hw⟩ :=
      afterWord_cases w { s with cmds := ws, resp := none, sched := s.sched.tail } <;> rw [hw]
    · obtain rfl : w = 0x0100 := decode_eq_command_iff.1 hd
      exact .inr (.inl ⟨.inr ⟨ws, hcmds⟩, rfl⟩)
    · obtain rfl := decode_eq_command_iff.1 hd
      exact .inr (.inr (.inl ⟨b, ws, hcmds, hfull, rfl⟩))
    · obtain rfl := decode_eq_command_iff.1 hd
      exact .inr (.inr (.inr (.inl ⟨b, ws, hcmds, hroom, rfl⟩)))
    · exact .inr (.inr (.inr (.inr (.inl ⟨v, rfl⟩))))
    · obtain rfl := decode_illegal_self hd
      exact .inr (.inr (.inr (.inr (.inr ⟨v, ws, hcmds, hd, rfl⟩))))

/-- Settles O42: of the six effects two add an error, one adds a response, and none takes anything away. -/
theorem historiesOnlyGrow : Obligations.HistoriesOnlyGrow := by
  unfold Obligations.HistoriesOnlyGrow
  intro s s' h
  obtain ho | ⟨-, ho⟩ | ⟨b, ws, -, -, ho⟩ | ⟨b, ws, -, -, ho⟩ | ⟨v, ho⟩ | ⟨w, ws, -, -, ho⟩ := observe_step_cases h <;>
    simp only [observe, Observation.mk.injEq] at ho
  · exact ⟨[], [], by simp [ho]⟩
  · exact ⟨[], [], by simp [ho]⟩
  · exact ⟨[.lengthOverflow], [], by simp [ho]⟩
  · exact ⟨[], [], by simp [ho]⟩
  · exact ⟨[], [v], by simp [ho]⟩
  · exact ⟨[.illegalCommand], [], by simp [ho]⟩

/-- Settles O43: the start of a frame is the only effect that clears a flag. -/
theorem flagsAreSticky : Obligations.FlagsAreSticky := by
  unfold Obligations.FlagsAreSticky
  intro s s' h hcleared
  obtain ho | ⟨hcause, -⟩ | ⟨b, ws, -, -, ho⟩ | ⟨b, ws, -, -, ho⟩ | ⟨v, ho⟩ | ⟨w, ws, -, -, ho⟩ := observe_step_cases h
  case inr.inl => exact hcause
  all_goals
    simp only [observe, Observation.mk.injEq] at ho
    simp [ho] at hcleared

/-- Settles O44: a refused FEED is the only effect that sets LOVF, and an illegal word the only one that sets ILL. -/
theorem aFlagIsSetOnlyByItsError : Obligations.AFlagIsSetOnlyByItsError := by
  unfold Obligations.AFlagIsSetOnlyByItsError
  intro s s' h
  obtain ho | ⟨-, ho⟩ | ⟨b, ws, hcmds, hfull, ho⟩ | ⟨b, ws, -, -, ho⟩ | ⟨v, ho⟩ | ⟨w, ws, hcmds, hd, ho⟩ :=
      observe_step_cases h <;>
    simp only [observe, Observation.mk.injEq] at ho
  case inr.inr.inl =>
    refine ⟨fun _ _ => ⟨hfull, ⟨b, ws, hcmds⟩, by simp [ho]⟩, fun hclear hset => ?_⟩
    simp [ho, hclear] at hset
  case inr.inr.inr.inr.inr =>
    refine ⟨fun hclear hset => ?_, fun _ _ => ⟨⟨w, ws, hcmds, hd⟩, by simp [ho]⟩⟩
    simp [ho, hclear] at hset
  all_goals simp +contextual [ho]

/-- Settles O45: of the six effects the start of a frame and an accepted FEED alone write ACC. -/
theorem nothingElseWritesTheAccumulator : Obligations.NothingElseWritesTheAccumulator := by
  unfold Obligations.NothingElseWritesTheAccumulator
  intro s s' h
  obtain ho | ⟨hcause, ho⟩ | ⟨b, ws, -, -, ho⟩ | ⟨b, ws, hcmds, hroom, ho⟩ | ⟨v, ho⟩ | ⟨w, ws, -, -, ho⟩ :=
      observe_step_cases h <;>
    have hacc := congrArg Observation.acc ho
  case inr.inl => exact .inr (.inl ⟨hacc, hcause⟩)
  case inr.inr.inr.inl => exact .inr (.inr ⟨b, ws, hcmds, hroom, hacc⟩)
  all_goals exact .inl hacc

/-- Settles O46: a FEED is counted only where the frame has room. -/
theorem theCounterNeverWraps : Obligations.TheCounterNeverWraps := by
  unfold Obligations.TheCounterNeverWraps
  intro s s' h
  obtain ho | ⟨-, ho⟩ | ⟨b, ws, -, -, ho⟩ | ⟨b, ws, -, hroom, ho⟩ | ⟨v, ho⟩ | ⟨w, ws, -, -, ho⟩ := observe_step_cases h <;>
    have hcnt := congrArg Observation.cnt ho
  case inr.inl =>
    exact .inr (.inr ⟨hcnt, congrArg Observation.acc ho, congrArg Observation.lovf ho, congrArg Observation.ill ho⟩)
  case inr.inr.inr.inl => exact .inr (.inl ((congrArg BitVec.toNat hcnt).trans (toNat_cnt_succ hroom)))
  all_goals exact .inl hcnt

end Sys2Proof.Machine
end

section
/-! What a run over waiting words does to the frame: the words by what they feed, and the state after the oldest of them
(70_reset_and_hazards.md R116, R121). -/

namespace Sys2Proof.Machine

theorem isClr_iff (w : Word) : isClr w = true ↔ decode w = .command .clr := beq_iff_eq

theorem fedByte?_of_feed {w : Word} {b : Byte} (h : decode w = .command (.feed b)) : fedByte? w = some b := by
  simp [fedByte?, h]

theorem isIllegal_of_illegal {w v : Word} (h : decode w = .illegal v) : isIllegal w = true := by
  simp [isIllegal, h, Decoded.instr?]

theorem isIllegal_of_command {w : Word} {i : Instr} (h : decode w = .command i) : isIllegal w = false := by
  simp [isIllegal, h, Decoded.instr?]

/-- The state in which the oldest waiting word is performed. -/
def taken (s : State) : State := { s with cmds := s.cmds.tail, resp := none }

/-- What taking and performing a word can do, by what the word is for a run. -/
theorem afterNext_cases (w : Word) (s : State) :
    (isClr w = true ∧ fedByte? w = none ∧ isIllegal w = false ∧ afterNext w s = startFrame (taken s)) ∨
    (∃ b, isClr w = false ∧ fedByte? w = some b ∧ isIllegal w = false ∧ s.cnt = maxLen ∧
      afterNext w s = raiseError .lengthOverflow (taken s)) ∨
    (∃ b, isClr w = false ∧ fedByte? w = some b ∧ isIllegal w = false ∧ s.cnt ≠ maxLen ∧
      afterNext w s = acceptByte b (taken s)) ∨
    (∃ v, isClr w = false ∧ fedByte? w = none ∧ isIllegal w = false ∧ afterNext w s = respond v (taken s)) ∨
    (isClr w = false ∧ fedByte? w = none ∧ isIllegal w = true ∧
      afterNext w s = raiseError .illegalCommand (taken s)) := by
  obtain ⟨hd, hw⟩ | ⟨b, hd, hfull, hw⟩ | ⟨b, hd, hroom, hw⟩ | ⟨i, v, hd, hi, hw⟩ | ⟨v, hd, hw⟩ :=
    afterWord_cases w (taken s)
  · exact .inl ⟨(isClr_iff w).2 hd, by simp [fedByte?, hd], isIllegal_of_command hd, hw⟩
  · exact .inr (.inl ⟨b, by simp [isClr, hd], fedByte?_of_feed hd, isIllegal_of_command hd, hfull, hw⟩)
  · exact .inr (.inr (.inl ⟨b, by simp [isClr, hd], fedByte?_of_feed hd, isIllegal_of_command hd, hroom, hw⟩))
  · have hread : isClr w = false ∧ fedByte? w = none := by
      simp only [List.mem_cons, List.not_mem_nil, or_false] at hi
      obtain rfl | rfl | rfl := hi <;> simp [isClr, fedByte?, hd]
    exact .inr (.inr (.inr (.inl ⟨v, hread.1, hread.2, isIllegal_of_command hd, hw⟩)))
  · exact .inr (.inr (.inr (.inr ⟨by simp [isClr, hd], by simp [fedByte?, hd], isIllegal_of_illegal hd, hw⟩)))

theorem afterNext_tbl (w : Word) (s : State) : (afterNext w s).tbl = s.tbl := by
  obtain ⟨-, -, -, htbl⟩ := afterWord_keeps w (taken s)
  exact htbl

theorem afterWords_tbl (ws : List Word) (s : State) : (afterWords ws s).tbl = s.tbl := by
  induction ws generalizing s with
  | nil => rfl
  | cons w ws ih => rw [afterWords_cons, ih, afterNext_tbl]

/-- A run over all the waiting words. -/
theorem runSteps_of_all_loaded {s : State} {ws : List Word} (h : s.Loaded ws) :
    runSteps ws.length s = .next (afterWords ws s) :=
  (runSteps_of_loaded (vs := []) (by rwa [List.append_nil])).1

/-- The registers are those of a frame of these bytes. -/
structure HoldsFrame (fed : List Byte) (s : State) : Prop where
  acc_eq : s.acc = raw s.tbl fed
  cnt_eq : s.cnt.toNat = fed.length

theorem HoldsFrame.length_le {fed : List Byte} {s : State} (h : HoldsFrame fed s) : fed.length ≤ 255 := by
  have hlt := s.cnt.isLt
  rw [h.cnt_eq] at hlt
  omega

theorem HoldsFrame.cnt_eq_ofNat {fed : List Byte} {s : State} (h : HoldsFrame fed s) :
    s.cnt = BitVec.ofNat 8 fed.length := by
  rw [← h.cnt_eq, BitVec.ofNat_toNat, BitVec.setWidth_eq]

theorem HoldsFrame.full_iff {fed : List Byte} {s : State} (h : HoldsFrame fed s) : s.cnt = maxLen ↔ fed.length = 255 := by
  rw [← h.cnt_eq, ← BitVec.toNat_inj]
  rfl

theorem State.FrameStart.holdsFrame {s : State} (h : s.FrameStart) : HoldsFrame [] s := by
  obtain ⟨hacc, hcnt, -, -, -⟩ := h
  exact ⟨hacc, by rw [hcnt]; rfl⟩

/-- One byte more is counted and folded after those before it. -/
theorem acceptByte_holdsFrame {fed : List Byte} {s : State} (h : HoldsFrame fed s) (hroom : s.cnt ≠ maxLen) (b : Byte) :
    HoldsFrame (fed ++ [b]) (acceptByte b s) where
  acc_eq := by rw [acceptByte_acc, acceptByte_tbl, raw_concat, h.acc_eq]
  cnt_eq := by rw [acceptByte_cnt, toNat_cnt_succ hroom, h.cnt_eq, List.length_append, List.length_singleton]

theorem HoldsFrame.of_same_registers {fed : List Byte} {s t : State} (h : HoldsFrame fed s) (hacc : t.acc = s.acc)
    (hcnt : t.cnt = s.cnt) (htbl : t.tbl = s.tbl) : HoldsFrame fed t :=
  ⟨by rw [hacc, htbl, h.acc_eq], by rw [hcnt, h.cnt_eq]⟩

theorem afterNext_holdsFrame {fed : List Byte} {s : State} (h : HoldsFrame fed s) (w : Word) :
    HoldsFrame (frameAfter fed [w]) (afterNext w s) := by
  have hlen := h.length_le
  have htaken : HoldsFrame fed (taken s) := h.of_same_registers rfl rfl rfl
  obtain ⟨hclr, -, -, hw⟩ | ⟨b, hclr, hfed, -, hfull, hw⟩ | ⟨b, hclr, hfed, -, hroom, hw⟩ | ⟨v, hclr, hfed, -, hw⟩ |
    ⟨hclr, hfed, -, hw⟩ := afterNext_cases w s <;> rw [hw]
  · simpa [frameAfter, hclr] using State.FrameStart.holdsFrame (startFrame_frameStart (s := taken s) rfl)
  · have hlen255 := h.full_iff.1 hfull
    simpa [frameAfter, hclr, hfed, hlen255] using htaken.of_same_registers (raiseError_acc .lengthOverflow _) rfl rfl
  · have hlen255 := (not_congr h.full_iff).1 hroom
    have hlt : fed.length < 255 := by omega
    simpa [frameAfter, hclr, hfed, hlt] using acceptByte_holdsFrame htaken hroom b
  · simpa [frameAfter, hclr, hfed] using htaken.of_same_registers (respond_acc v _) rfl rfl
  · simpa [frameAfter, hclr, hfed] using htaken.of_same_registers (raiseError_acc .illegalCommand _) rfl rfl

/-- The words' frame is the one that the registers hold after them. -/
theorem afterWords_holdsFrame {fed : List Byte} {s : State} (h : HoldsFrame fed s) (ws : List Word) :
    HoldsFrame (frameAfter fed ws) (afterWords ws s) := by
  induction ws generalizing fed s with
  | nil => exact h
  | cons w ws ih =>
    rw [frameAfter_cons, afterWords_cons]
    exact ih (afterNext_holdsFrame h w)

/-- Only a FEED on a full frame sets LOVF, and only CLR clears it. -/
theorem afterNext_lovf {fed : List Byte} {s : State} (h : HoldsFrame fed s) (w : Word) :
    (afterNext w s).lovf = true ↔
      isClr w = false ∧ (s.lovf = true ∨ (fed.length = 255 ∧ (fedByte? w).isSome = true)) := by
  rw [← h.full_iff]
  obtain ⟨hclr, -, -, hw⟩ | ⟨b, hclr, hfed, -, hfull, hw⟩ | ⟨b, hclr, hfed, -, hroom, hw⟩ | ⟨v, hclr, hfed, -, hw⟩ |
    ⟨hclr, hfed, -, hw⟩ := afterNext_cases w s
  · simp [hw, hclr]
  · simp [hw, hclr, hfed, hfull]
  · simp [hw, hclr, hroom, taken]
  · simp [hw, hclr, hfed, taken]
  · simp [hw, hclr, hfed, taken]

/-- Only an illegal word sets ILL, and only CLR clears it. -/
theorem afterNext_ill (w : Word) (s : State) :
    (afterNext w s).ill = true ↔ isClr w = false ∧ (s.ill = true ∨ isIllegal w = true) := by
  obtain ⟨hclr, -, hill, hw⟩ | ⟨b, hclr, -, hill, -, hw⟩ | ⟨b, hclr, -, hill, -, hw⟩ | ⟨v, hclr, -, hill, hw⟩ |
    ⟨hclr, -, hill, hw⟩ := afterNext_cases w s <;> simp [hw, hclr, hill, taken]

end Sys2Proof.Machine
end

section
/-! After any words the registers are those of the current frame (41_frame_commands.md R83, R84; 60_exceptions.md R92, R93). -/

namespace Sys2Proof.Machine

theorem fedBytes_cons (w : Word) (ws : List Word) : fedBytes (w :: ws) = (fedByte? w).toList ++ fedBytes ws := by
  cases h : fedByte? w <;> simp [fedBytes, h]

/-- A CLR feeds nothing. -/
theorem fedByte?_of_isClr {w : Word} (h : isClr w = true) : fedByte? w = none := by
  simp [fedByte?, (isClr_iff w).1 h]

theorem isClr_of_fedByte? {w : Word} {b : Byte} (h : fedByte? w = some b) : isClr w = false := by
  by_contra hclr
  rw [fedByte?_of_isClr (by simpa using hclr)] at h
  cases h

theorem frameAfter_clr (fed : List Byte) {w : Word} (h : isClr w = true) : frameAfter fed [w] = [] := by
  simp [frameAfter, h]

theorem frameAfter_of_not_fed (fed : List Byte) {w : Word} (hclr : isClr w = false) (hfed : fedByte? w = none) :
    frameAfter fed [w] = fed := by
  simp [frameAfter, hclr, hfed]

theorem frameAfter_of_room {fed : List Byte} {w : Word} {b : Byte} (hfed : fedByte? w = some b) (hlen : fed.length < 255) :
    frameAfter fed [w] = fed ++ [b] := by
  simp [frameAfter, isClr_of_fedByte? hfed, hfed, hlen]

theorem frameAfter_of_full {fed : List Byte} {w : Word} {b : Byte} (hfed : fedByte? w = some b) (hlen : fed.length = 255) :
    frameAfter fed [w] = fed := by
  simp [frameAfter, isClr_of_fedByte? hfed, hfed, hlen]

/-- Without a CLR the frame goes on, up to 255 bytes. -/
theorem frameAfter_of_no_clr {fed : List Byte} (hlen : fed.length ≤ 255) {ws : List Word} (hclr : ws.any isClr = false) :
    frameAfter fed ws = (fed ++ fedBytes ws).take 255 := by
  induction ws generalizing fed with
  | nil => rw [frameAfter_nil, fedBytes_nil, List.append_nil, List.take_of_length_le hlen]
  | cons w ws ih =>
    obtain ⟨hw, hws⟩ := Bool.or_eq_false_iff.1 (List.any_cons ▸ hclr)
    rw [frameAfter_cons, fedBytes_cons]
    cases hfed : fedByte? w with
    | none => rw [frameAfter_of_not_fed fed hw hfed, ih hlen hws]; rfl
    | some b =>
      obtain hroom | hfull := Nat.lt_or_eq_of_le hlen
      · rw [frameAfter_of_room hfed hroom, ih (by simpa using hroom) hws, List.append_assoc]
        rfl
      · rw [frameAfter_of_full hfed hfull, ih hlen hws, List.take_left' hfull, List.take_left' hfull]

/-- LOVF after any words: the CLR, where one came, starts afresh; after it LOVF is set by the 256th byte and stays. -/
theorem afterWords_lovf {fed : List Byte} {s : State} (h : HoldsFrame fed s) (ws : List Word) :
    (afterWords ws s).lovf = true ↔ (ws.any isClr = false ∧ s.lovf = true) ∨
      255 < (if ws.any isClr then 0 else fed.length) + (fedBytes (sinceClr ws)).length := by
  induction ws generalizing fed s with
  | nil =>
    have hlen := h.length_le
    simp [hlen]
  | cons w ws ih =>
    rw [afterWords_cons, ih (afterNext_holdsFrame h w), afterNext_lovf h, List.any_cons]
    cases hws : ws.any isClr with
    | true => simp [sinceClr_of_clr w hws]
    | false =>
      rw [sinceClr_of_no_clr hws]
      cases hw : isClr w with
      | true => simp [sinceClr_clr hw hws, frameAfter_clr fed hw]
      | false =>
        rw [sinceClr_of_no_clr (by simp [hw, hws]), fedBytes_cons]
        have hlen := h.length_le
        cases hfed : fedByte? w with
        | none => simp [frameAfter_of_not_fed fed hw hfed]
        | some b =>
          obtain hroom | hfull := Nat.lt_or_eq_of_le hlen
          · simp [frameAfter_of_room hfed hroom, hroom.ne, Nat.add_assoc, Nat.add_comm 1]
          · simp [frameAfter_of_full hfed hfull, hfull]

/-- ILL after any words: the CLR, where one came, clears it; after it an illegal word sets it and it stays. -/
theorem afterWords_ill (ws : List Word) (s : State) :
    (afterWords ws s).ill = true ↔
      (ws.any isClr = false ∧ s.ill = true) ∨ (sinceClr ws).any isIllegal = true := by
  induction ws generalizing s with
  | nil => simp
  | cons w ws ih =>
    rw [afterWords_cons, ih, afterNext_ill, List.any_cons]
    cases hws : ws.any isClr with
    | true => simp [sinceClr_of_clr w hws]
    | false =>
      rw [sinceClr_of_no_clr hws]
      cases hw : isClr w with
      | true => simp [sinceClr_clr hw hws]
      | false => simp [sinceClr_of_no_clr (ws := w :: ws) (by simp [hw, hws]), or_assoc]

/-- Settles O49: ACC and CNT are those of `frameAfter` (`afterWords_holdsFrame`), the flags those of the words since the
last CLR. -/
theorem registersFollowTheCurrentFrame : Obligations.RegistersFollowTheCurrentFrame := by
  unfold Obligations.RegistersFollowTheCurrentFrame
  intro s ws fed hloaded hlen hacc hcnt
  have hfed : HoldsFrame fed s := by
    refine ⟨hacc, ?_⟩
    rw [hcnt, BitVec.toNat_ofNat]
    omega
  have hafter := afterWords_holdsFrame hfed ws
  refine ⟨_, runSteps_of_all_loaded hloaded, ?_, hafter.cnt_eq_ofNat, hafter.length_le, afterWords_lovf hfed ws,
    afterWords_ill ws s⟩
  rw [hafter.acc_eq, afterWords_tbl]

/-- From the start of a frame and without a CLR: the first 255 bytes, LOVF for more of them, ILL for an illegal word. -/
theorem afterWords_of_frameStart {s : State} (hstart : s.FrameStart) {ws : List Word} (hclr : ws.any isClr = false) :
    HoldsFrame ((fedBytes ws).take 255) (afterWords ws s) ∧
      ((afterWords ws s).lovf = true ↔ 255 < (fedBytes ws).length) ∧
      ((afterWords ws s).ill = true ↔ ws.any isIllegal = true) := by
  have hframe := hstart.holdsFrame
  have hafter := afterWords_holdsFrame hframe ws
  rw [frameAfter_of_no_clr (Nat.zero_le _) hclr, List.nil_append] at hafter
  obtain ⟨-, -, hlovf, hill, -⟩ := hstart
  refine ⟨hafter, ?_, ?_⟩
  · simp [afterWords_lovf hframe, sinceClr_of_no_clr hclr, hclr, hlovf]
  · simp [afterWords_ill, sinceClr_of_no_clr hclr, hclr, hill]

end Sys2Proof.Machine
end

section
/-! What a run adds to the histories (60_exceptions.md R98, R101; 20_memory.md R43). -/

namespace Sys2Proof.Machine

/-- Without a CLR the error history grows, and both flags are clear afterwards exactly when they were clear before and it
did not. -/
theorem afterNext_errLog {w : Word} (hclr : isClr w = false) (s : State) :
    ∃ es, (afterNext w s).errLog = s.errLog ++ es ∧
      ((afterNext w s).lovf = false ∧ (afterNext w s).ill = false ↔ (s.lovf = false ∧ s.ill = false) ∧ es = []) := by
  obtain ⟨hclr', -⟩ | ⟨b, -, -, -, -, hw⟩ | ⟨b, -, -, -, -, hw⟩ | ⟨v, -, -, -, hw⟩ | ⟨-, -, -, hw⟩ := afterNext_cases w s
  · simp [hclr] at hclr'
  · exact ⟨[.lengthOverflow], by simp [hw, taken]⟩
  · exact ⟨[], by simp [hw, taken]⟩
  · exact ⟨[], by simp [hw, taken]⟩
  · exact ⟨[.illegalCommand], by simp [hw, taken]⟩

theorem afterWords_errLog {ws : List Word} (hclr : ∀ w ∈ ws, isClr w = false) (s : State) :
    ∃ es, (afterWords ws s).errLog = s.errLog ++ es ∧
      ((afterWords ws s).lovf = false ∧ (afterWords ws s).ill = false ↔ (s.lovf = false ∧ s.ill = false) ∧ es = []) := by
  induction ws generalizing s with
  | nil => exact ⟨[], by simp⟩
  | cons w ws ih =>
    rw [List.forall_mem_cons] at hclr
    obtain ⟨es, hlog, hflags⟩ := afterNext_errLog hclr.1 s
    obtain ⟨es', hlog', hflags'⟩ := ih hclr.2 (afterNext w s)
    refine ⟨es ++ es', by rw [afterWords_cons, hlog', hlog, List.append_assoc], ?_⟩
    rw [afterWords_cons, hflags', hflags, List.append_eq_nil_iff, and_assoc]

theorem clean_iff (s : State) : s.Clean ↔ s.lovf = false ∧ s.ill = false := by
  rw [State.Clean, ← extractLsb'_lowByte (by decide), lowByte_statusWord]
  cases s.ill <;> cases s.lovf <;> decide

/-- Settles O52: the flags of a frame's start are clear, so they are clear at the end exactly when the history did not
grow. -/
theorem cleanMeansNoErrorOccurred : Obligations.CleanMeansNoErrorOccurred := by
  unfold Obligations.CleanMeansNoErrorOccurred
  intro s ws hstart hloaded hclr
  obtain ⟨-, -, hlovf, hill, -⟩ := hstart
  obtain ⟨es, hlog, hflags⟩ := afterWords_errLog hclr s
  refine ⟨_, runSteps_of_all_loaded hloaded, ?_⟩
  simp [clean_iff, hflags, ErrorFree, hlog, hlovf, hill]

/-- The words that make a response. -/
def readWords : List Word := [0x1000, 0x1100, 0x1200]

theorem mem_readWords_iff (w : Word) : w ∈ readWords ↔ ∃ i ∈ [Instr.rdres, .rdraw, .rdstat], decode w = .command i := by
  simp [decode_eq_command_iff, readWords, encode]

theorem afterNext_out (w : Word) (s : State) :
    ∃ os, (afterNext w s).out = s.out ++ os ∧ os.length = if readWords.contains w then 1 else 0 := by
  have hread := mem_readWords_iff w
  obtain ⟨hd, hw⟩ | ⟨b, hd, -, hw⟩ | ⟨b, hd, -, hw⟩ | ⟨i, v, hd, hi, hw⟩ | ⟨v, hd, hw⟩ := afterWord_cases w (taken s) <;>
    rw [hd] at hread
  case inr.inr.inr.inl =>
    exact ⟨[v], congrArg State.out hw, by simp [hread.2 ⟨i, hi, rfl⟩]⟩
  all_goals exact ⟨[], (congrArg State.out hw).trans (List.append_nil _).symm, by simpa using hread⟩

theorem afterWords_out (ws : List Word) (s : State) :
    ∃ os, (afterWords ws s).out = s.out ++ os ∧ os.length = ws.countP readWords.contains := by
  induction ws generalizing s with
  | nil => exact ⟨[], by simp⟩
  | cons w ws ih =>
    obtain ⟨os, hout, hlen⟩ := afterNext_out w s
    obtain ⟨os', hout', hlen'⟩ := ih (afterNext w s)
    refine ⟨os ++ os', by rw [afterWords_cons, hout', hout, List.append_assoc], ?_⟩
    rw [List.length_append, hlen, hlen', List.countP_cons, Nat.add_comm]

/-- Settles O53, word by word. -/
theorem onlyReadsMakeResponses : Obligations.OnlyReadsMakeResponses := by
  unfold Obligations.OnlyReadsMakeResponses
  intro s ws hloaded
  obtain ⟨os, hout, hlen⟩ := afterWords_out ws s
  refine ⟨_, runSteps_of_all_loaded hloaded, ?_⟩
  rw [hout, List.length_append, hlen]
  rfl

end Sys2Proof.Machine
end

section
/-! The block computes CrcRef (40_datapath.md R80): a run of FEEDs, reads and illegal words, and the pseudo-instruction CRC
(30_encoding.md R62). -/

namespace Sys2Proof.Machine

theorem afterNext_rdraw (s : State) : afterNext 0x1100 s = respond s.acc (taken s) := rfl

theorem afterNext_rdstat (s : State) : afterNext 0x1200 s = respond (statusWord s) (taken s) := rfl

theorem statusWord_respond (v : Word) (s : State) : statusWord (respond v s) = statusWord s := statusWord_congr rfl rfl rfl

theorem statusWord_taken (s : State) : statusWord (taken s) = statusWord s := statusWord_congr rfl rfl rfl

/-- The three reads answer from one and the same frame. -/
theorem afterWords_reads_out (s : State) :
    (afterWords readWords s).out = s.out ++ [fix16 s.acc, s.acc, statusWord s] := by
  rw [readWords, afterWords_cons, afterWords_cons, afterWords_cons, afterWords_nil, afterNext_rdstat, afterNext_rdraw,
    afterNext_rdres, statusWord_respond, statusWord_taken, statusWord_respond]
  exact (List.append_assoc _ _ _).trans (List.append_assoc _ _ _)

/-- STATUS of a frame that never overflowed, as a number. -/
theorem statusWord_eq_ofNat {s : State} (hlovf : s.lovf = false) :
    statusWord s = BitVec.ofNat 16 (256 * s.cnt.toNat + if s.ill then 2 else 0) := by
  have hlow : ((flagBit s.ill <<< 1) ||| flagBit s.lovf).toNat = if s.ill then 2 else 0 := by
    rw [hlovf]
    cases s.ill <;> rfl
  rw [← hlow, ← toNat_joinBytes, ← statusWord, BitVec.ofNat_toNat, BitVec.setWidth_eq]

/-- Settles O48. The frame holds all its bytes (`afterWords_of_frameStart`), so the reads answer from their CRC. -/
theorem theBlockComputesCrcRef : Obligations.TheBlockComputesCrcRef := by
  unfold Obligations.TheBlockComputesCrcRef
  intro s ws hstart hloaded hclr hlen
  obtain ⟨hframe, hlovf, hill⟩ := afterWords_of_frameStart hstart (by simpa using hclr)
  rw [List.take_of_length_le hlen] at hframe
  have hnolovf : (afterWords ws s).lovf = false := Bool.eq_false_iff.2 fun h => absurd (hlovf.1 h) hlen.not_gt
  have hacc : (afterWords ws s).acc = raw s.tbl (fedBytes ws) := by rw [hframe.acc_eq, afterWords_tbl]
  have hstatus : statusWord (afterWords ws s) =
      BitVec.ofNat 16 (256 * (fedBytes ws).length + if ws.any isIllegal then 2 else 0) := by
    rw [statusWord_eq_ofNat hnolovf, hframe.cnt_eq, Bool.eq_iff_iff.2 hill]
  obtain ⟨os, hout, -⟩ := afterWords_out ws s
  have hrun := runSteps_of_all_loaded hloaded
  rw [List.length_append] at hrun
  refine ⟨_, os, _, hrun, crcRef_length s.tbl hlen, ?_⟩
  have hreads := afterWords_reads_out (afterWords ws s)
  rwa [hout, hacc, hstatus, ← afterWords_append] at hreads

end Sys2Proof.Machine
end

section
/-! Runs of FEEDs (70_reset_and_hazards.md R116, R117; 93_implementation_defined.md U2). -/

namespace Sys2Proof.Machine

theorem fedByte?_encode_feed (b : Byte) : fedByte? (encode (.feed b)) = some b := fedByte?_of_feed (decode_encode _)

@[simp] theorem feedWords_nil : feedWords [] = [] := rfl

@[simp] theorem feedWords_cons (b : Byte) (s : List Byte) : feedWords (b :: s) = encode (.feed b) :: feedWords s := rfl

@[simp] theorem fedBytes_feedWords (s : List Byte) : fedBytes (feedWords s) = s := by
  induction s with
  | nil => rfl
  | cons b s ih =>
    rw [feedWords_cons, fedBytes_cons, fedByte?_encode_feed, ih]
    rfl

@[simp] theorem length_feedWords (s : List Byte) : (feedWords s).length = s.length := List.length_map ..

theorem feedWords_append (s u : List Byte) : feedWords (s ++ u) = feedWords s ++ feedWords u := List.map_append

theorem any_isClr_feedWords (s : List Byte) : (feedWords s).any isClr = false := by
  simp [feedWords, isClr]

theorem any_isIllegal_feedWords (s : List Byte) : (feedWords s).any isIllegal = false := by
  simp [feedWords, isIllegal, Decoded.instr?]

theorem afterNext_feed_of_room {s : State} (b : Byte) (h : s.cnt ≠ maxLen) :
    afterNext (encode (.feed b)) s = acceptByte b (taken s) := by
  simp [afterNext, afterWord, h, taken]

theorem afterNext_feed_of_full {s : State} (b : Byte) (h : s.cnt = maxLen) :
    afterNext (encode (.feed b)) s = raiseError .lengthOverflow (taken s) := by
  simp [afterNext, afterWord, h, taken]

/-- FEEDs for which the frame has room are all folded and counted, whatever the registers held. -/
theorem afterWords_feedWords {s : State} {b : List Byte} (hlen : s.cnt.toNat + b.length ≤ 255) :
    (afterWords (feedWords b) s).acc = fold s.tbl s.acc b ∧
      (afterWords (feedWords b) s).cnt.toNat = s.cnt.toNat + b.length := by
  induction b generalizing s with
  | nil => exact ⟨rfl, rfl⟩
  | cons b bs ih =>
    rw [List.length_cons] at hlen
    have hroom : s.cnt ≠ maxLen := by
      rw [maxLen]
      bv_omega
    have hcnt := toNat_cnt_succ hroom
    rw [feedWords_cons, afterWords_cons, afterNext_feed_of_room b hroom]
    obtain ⟨hacc', hcnt'⟩ := ih (s := acceptByte b (taken s)) (by rw [acceptByte_cnt, taken, hcnt]; omega)
    refine ⟨hacc', hcnt'.trans ?_⟩
    rw [acceptByte_cnt, taken, hcnt, List.length_cons]
    omega

/-- Settles O50. A frame's start has the start value of Raw, and the FEEDs of two sequences are those of one. -/
theorem feedsWithoutClrContinueTheFrame : Obligations.FeedsWithoutClrContinueTheFrame := by
  unfold Obligations.FeedsWithoutClrContinueTheFrame
  refine ⟨fun s b hloaded hlen => ?anyRegisters, fun s a b hstart hloaded hlen => ?frame⟩
  case anyRegisters =>
    have hrun := runSteps_of_all_loaded hloaded
    rw [length_feedWords] at hrun
    exact ⟨_, hrun, afterWords_feedWords hlen⟩
  case frame =>
    rw [← feedWords_append] at hloaded
    have hrun := runSteps_of_all_loaded hloaded
    rw [length_feedWords, List.length_append] at hrun
    obtain ⟨hacc, hcnt, -, -, -⟩ := hstart
    obtain ⟨hafter, -⟩ := afterWords_feedWords (s := s) (b := a ++ b) (by simpa [hcnt] using hlen)
    exact ⟨_, hrun, hafter.trans (congrArg (fold s.tbl · (a ++ b)) hacc)⟩

/-- FEEDs add one LengthOverflow for each byte above 255. -/
theorem afterWords_feedWords_errLog (b : List Byte) (s : State) :
    (afterWords (feedWords b) s).errLog =
      s.errLog ++ List.replicate (s.cnt.toNat + b.length - 255) .lengthOverflow := by
  induction b generalizing s with
  | nil =>
    have hlt := s.cnt.isLt
    have hzero : s.cnt.toNat - 255 = 0 := by omega
    simp [hzero]
  | cons b bs ih =>
    rw [feedWords_cons, afterWords_cons, ih, List.length_cons]
    by_cases hfull : s.cnt = maxLen
    · have hcnt : s.cnt.toNat = 255 := by
        rw [hfull]
        decide
      have hcount (n : Nat) : s.cnt.toNat + n - 255 = n := by rw [hcnt, Nat.add_sub_cancel_left]
      rw [afterNext_feed_of_full b hfull, raiseError_errLog, raiseError_cnt, taken, hcount, hcount, List.replicate_succ,
        List.append_assoc]
      rfl
    · rw [afterNext_feed_of_room b hfull, acceptByte_errLog, acceptByte_cnt, taken, toNat_cnt_succ hfull, Nat.add_assoc,
        Nat.add_comm 1]

/-- Settles O51: the frame holds the first 255 bytes (`afterWords_of_frameStart`), and the history counts the others. -/
theorem overlongFrameKeepsItsFirst255Bytes : Obligations.OverlongFrameKeepsItsFirst255Bytes := by
  unfold Obligations.OverlongFrameKeepsItsFirst255Bytes
  intro s b hstart hloaded hlen
  obtain ⟨hframe, hlovf, hill⟩ := afterWords_of_frameStart hstart (any_isClr_feedWords b)
  rw [fedBytes_feedWords] at hframe hlovf
  have hrun := runSteps_of_all_loaded hloaded
  rw [length_feedWords] at hrun
  obtain ⟨-, hcnt, -, -, -⟩ := hstart
  refine ⟨_, hrun, ?acc, ?cnt, hlovf.2 hlen, ?ill, ?errLog⟩
  case acc => rw [hframe.acc_eq, afterWords_tbl]
  case cnt =>
    rw [hframe.cnt_eq_ofNat, List.length_take, Nat.min_eq_left hlen.le]
    rfl
  case ill => simpa [any_isIllegal_feedWords] using hill
  case errLog => simpa [hcnt] using afterWords_feedWords_errLog b s

/-- Settles O60. The CLR starts a frame at any state, and RDRES answers the result of the bytes that follow it. -/
theorem crcPseudoInstructionAnswersCrcRef : Obligations.CrcPseudoInstructionAnswersCrcRef := by
  unfold Obligations.CrcPseudoInstructionAnswersCrcRef
  intro s b hwf hloaded
  have hlen : b.length ≤ 255 := by simpa [Stmt.wf] using hwf
  have hwords : expand (.crc b) = 0x0100 :: (feedWords b ++ [0x1000]) := rfl
  have hrun := runSteps_of_all_loaded hloaded
  rw [hwords, List.length_cons, List.length_append, length_feedWords] at hrun
  refine ⟨_, _, hrun, crcRef_length s.tbl hlen, ?_⟩
  have hzero : (afterNext 0x0100 s).cnt.toNat + b.length ≤ 255 := by
    rw [afterNext_clr, startFrame_cnt]
    exact (Nat.zero_add _).trans_le hlen
  obtain ⟨hacc, -⟩ := afterWords_feedWords hzero
  rw [afterWords_cons, afterWords_append, afterWords_cons, afterWords_nil, afterNext_rdres, respond_resp, hacc,
    afterNext_clr]
  rfl

/-- An interleaving has the words of both, in some order. -/
theorem perm_of_isMerge {a b m : List Word} (h : isMerge a b m = true) : m.Perm (a ++ b) := by
  induction m generalizing a b with
  | nil =>
    obtain ⟨rfl, rfl⟩ : a = [] ∧ b = [] := by simpa [isMerge] using h
    exact .nil
  | cons w m ih =>
    obtain h | h := (Bool.or_eq_true _ _).mp h
    · cases a with
      | nil => simp at h
      | cons x a =>
        obtain ⟨rfl, hrest⟩ : x = w ∧ isMerge a b m = true := by simpa using h
        exact (ih hrest).cons x
    · cases b with
      | nil => simp at h
      | cons y b =>
        obtain ⟨rfl, hrest⟩ : y = w ∧ isMerge a b m = true := by simpa using h
        exact ((ih hrest).cons y).trans List.perm_middle.symm

/-- Settles O55. An interleaving of FEEDs holds no CLR and as many bytes as both hosts feed, so the frame is that of its
bytes. -/
theorem sharedBlockChecksumsTheMergedStream : Obligations.SharedBlockChecksumsTheMergedStream := by
  unfold Obligations.SharedBlockChecksumsTheMergedStream
  intro s x y m hstart hmerge hlen hloaded
  have hperm := perm_of_isMerge hmerge
  rw [← feedWords_append] at hperm
  have hclr : m.any isClr = false := by rw [hperm.any_eq, any_isClr_feedWords]
  have hcount : (fedBytes m).length = x.length + y.length := by
    rw [fedBytes, (hperm.filterMap fedByte?).length_eq, ← fedBytes, fedBytes_feedWords, List.length_append]
  obtain ⟨hframe, -⟩ := afterWords_of_frameStart hstart hclr
  rw [List.take_of_length_le (hcount.trans_le hlen)] at hframe
  exact ⟨_, runSteps_of_all_loaded hloaded, by rw [hframe.acc_eq, afterWords_tbl], hframe.cnt_eq.trans hcount⟩

end Sys2Proof.Machine
end

section
/-! Every interleaving of HOST and CORE performs the words in their order (20_memory.md R48; log 1, log 18). -/

namespace Sys2Proof.Machine

/-- The words still to be performed: those that wait, and behind them those still to be delivered. -/
def pendingWords (s : State) : List Word := s.cmds ++ deliveredWords s.sched

/-- A bound on the steps to the end of the run: every turn, and a turn of the CORE for every word. -/
def workLeft (s : State) : Nat := s.sched.length + s.cmds.length + (deliveredWords s.sched).length

/-- No reset waits and none is planned. -/
def State.NoReset (s : State) : Prop := s.resetReq = false ∧ Turn.assertReset ∉ s.sched

/-- What performing a word changes of the observed state depends on that state and the table alone. -/
theorem observe_afterWord_congr (w : Word) {s u : State} (hobs : observe s = observe u) (htbl : s.tbl = u.tbl) :
    observe (afterWord w s) = observe (afterWord w u) := by
  simp only [observe, Observation.mk.injEq] at hobs
  obtain ⟨hout, hacc, hcnt, hlovf, hill, hlog⟩ := hobs
  have hstatus : statusWord s = statusWord u := statusWord_congr hcnt hlovf hill
  unfold afterWord
  cases decode w with
  | illegal v => simp [observe, hout, hacc, hcnt, hlovf, hlog]
  | command i =>
    cases i with
    | feed b => by_cases h : u.cnt = maxLen <;> simp [observe, h, hout, hacc, hcnt, hlovf, hill, hlog, htbl]
    | _ => simp [observe, hout, hacc, hcnt, hlovf, hill, hlog, hstatus]

theorem observe_afterWords_congr (ws : List Word) {s u : State} (hobs : observe s = observe u) (htbl : s.tbl = u.tbl) :
    observe (afterWords ws s) = observe (afterWords ws u) := by
  induction ws generalizing s u with
  | nil => exact hobs
  | cons w ws ih =>
    refine ih (observe_afterWord_congr w (s := taken s) (u := taken u) hobs htbl) ?_
    rw [afterNext_tbl, afterNext_tbl, htbl]

/-- From `s` to `t` the run comes one step closer to its end, with no reset, and what it will come to stays. -/
structure Advances (s t : State) : Prop where
  noReset : t.NoReset
  workLeft_le : workLeft t ≤ workLeft s - 1
  same_end : observe (afterWords (pendingWords t) t) = observe (afterWords (pendingWords s) s)

/-- A turn of the CORE delivers nothing. -/
theorem deliveredWords_tail_of_core {s : State} (h : s.sched = [] ∨ s.sched.head? = some .core) :
    deliveredWords s.sched.tail = deliveredWords s.sched := by
  cases hs : s.sched with
  | nil => rfl
  | cons t ts =>
    obtain rfl : t = .core := by simpa [hs] using h
    rfl

/-- With no word waiting the CORE's turn passes. -/
theorem stepped_of_no_word {s : State} (hcore : s.sched = [] ∨ s.sched.head? = some .core) (hreset : s.resetReq = false)
    (hcmds : s.cmds = []) : stepped s = { s with sched := s.sched.tail } := by
  have hnone : nextCommand { s with sched := s.sched.tail } = none := nextCommand_nil hcmds
  apply stepped_of_step
  rw [step_eq_coreTurn hcore, coreTurn, if_neg (by simp [hreset]), hnone]

theorem advances_of_no_word {s : State} (hcore : s.sched = [] ∨ s.sched.head? = some .core) (h : s.NoReset)
    (hcmds : s.cmds = []) : Advances s (stepped s) := by
  have hdel := deliveredWords_tail_of_core hcore
  rw [stepped_of_no_word hcore h.1 hcmds]
  refine ⟨⟨h.1, fun hmem => h.2 (List.mem_of_mem_tail hmem)⟩, ?work, ?same⟩
  case work =>
    simp only [workLeft, hcmds, hdel, List.length_tail, List.length_nil]
    cases hs : s.sched with
    | nil => simp [deliveredWords]
    | cons t ts => simp
  case same =>
    simp only [pendingWords, hcmds, hdel]
    exact observe_afterWords_congr _ rfl rfl

/-- With a word waiting the CORE's turn performs it, and it is the first of the pending words. -/
theorem advances_of_word {s : State} {w : Word} {ws : List Word} (hcore : s.sched = [] ∨ s.sched.head? = some .core)
    (h : s.NoReset) (hcmds : s.cmds = w :: ws) : Advances s (stepped s) := by
  have hdel := deliveredWords_tail_of_core hcore
  have hstep : stepped s = afterWord w { s with cmds := ws, resp := none, sched := s.sched.tail } :=
    stepped_of_step ((step_of_waiting_word hcore h.1 hcmds).trans (perform_eq _ _))
  obtain ⟨kcmds, ksched, kreset, ktbl⟩ := afterWord_keeps w { s with cmds := ws, resp := none, sched := s.sched.tail }
  rw [← hstep] at kcmds ksched kreset ktbl
  have hplan : Turn.assertReset ∉ (stepped s).sched := by
    rw [ksched]
    exact fun hmem => h.2 (List.mem_of_mem_tail hmem)
  refine ⟨⟨kreset.trans h.1, hplan⟩, ?work, ?same⟩
  case work =>
    simp only [workLeft, kcmds, ksched, hcmds, hdel, List.length_tail, List.length_cons]
    omega
  case same =>
    simp only [pendingWords, kcmds, ksched, hcmds, hdel, List.cons_append, afterWords_cons]
    refine observe_afterWords_congr _ ?_ ?_
    · rw [hstep]
      exact observe_afterWord_congr w rfl rfl
    · rw [ktbl, afterNext_tbl]

theorem advances_of_core {s : State} (hcore : s.sched = [] ∨ s.sched.head? = some .core) (h : s.NoReset) :
    Advances s (stepped s) := by
  cases hcmds : s.cmds with
  | nil => exact advances_of_no_word hcore h hcmds
  | cons w ws => exact advances_of_word hcore h hcmds

/-- A host's turn moves a word from the schedule to the channel, where it stays in its place, or changes no word. -/
theorem advances_stepped {s : State} (h : s.NoReset) : Advances s (stepped s) := by
  cases hs : s.sched with
  | nil => exact advances_of_core (.inl hs) h
  | cons t ts =>
    have hplan : Turn.assertReset ∉ ts := fun hmem => h.2 (hs ▸ List.mem_cons_of_mem t hmem)
    cases t with
    | core => exact advances_of_core (.inr (by rw [hs]; rfl)) h
    | deliver w =>
      rw [stepped_of_step (step_eq_of_deliver hs)]
      refine ⟨⟨h.1, hplan⟩, ?_, ?_⟩
      · simp only [workLeft, hs, deliveredWords, deliverWord, List.length_append, List.length_cons, List.length_nil]
        omega
      · simp only [pendingWords, hs, deliveredWords, deliverWord, List.append_assoc, List.singleton_append]
        exact observe_afterWords_congr _ rfl rfl
    | take =>
      rw [stepped_of_step (step_eq_of_take hs)]
      refine ⟨⟨h.1, hplan⟩, ?_, ?_⟩
      · simp only [workLeft, hs, deliveredWords, takeResponse, List.length_cons]
        omega
      · simp only [pendingWords, hs, deliveredWords, takeResponse]
        exact observe_afterWords_congr _ rfl rfl
    | assertReset => exact absurd (hs ▸ List.mem_cons_self) h.2

/-- Enough steps end the run, and it comes to what its words in their order come to. -/
theorem iterate_stepped_in_order (k : Nat) {s : State} (h : s.NoReset) (hk : workLeft s ≤ k) :
    finished (stepped^[k] s) = true ∧ observe (stepped^[k] s) = observe (afterWords (pendingWords s) s) := by
  induction k generalizing s with
  | zero =>
    obtain ⟨hsched, hcmds⟩ : s.sched = [] ∧ s.cmds = [] := by
      simp only [workLeft] at hk
      exact ⟨List.length_eq_zero_iff.1 (by omega), List.length_eq_zero_iff.1 (by omega)⟩
    refine ⟨(finished_iff s).2 ⟨hsched, hcmds, h.1⟩, ?_⟩
    simp [pendingWords, hsched, hcmds, deliveredWords]
  | succ k ih =>
    obtain ⟨hnext, hwork, hobs⟩ := advances_stepped h
    rw [Function.iterate_succ_apply, ← hobs]
    exact ih hnext (by omega)

/-- Settles O54. Both runs come to what the pending words in their order come to, from states that are observed alike. -/
theorem schedulesDoNotChangeTheRun : Obligations.SchedulesDoNotChangeTheRun := by
  unfold Obligations.SchedulesDoNotChangeTheRun
  intro s k hreset hplan hk
  obtain ⟨hfin, hobs⟩ := iterate_stepped_in_order k ⟨hreset, hplan⟩ hk
  have hloaded : State.Loaded { s with cmds := pendingWords s, sched := [] } (pendingWords s) := ⟨rfl, rfl, hreset⟩
  have hrun := runSteps_of_all_loaded hloaded
  rw [pendingWords, List.length_append] at hrun
  exact ⟨_, _, runSteps_eq_iterate k s, hfin, hrun, hobs.trans (observe_afterWords_congr _ rfl rfl)⟩

end Sys2Proof.Machine
end

section
/-! The flags, the histories and the waiting response do not reach the checksum (41_frame_commands.md,
42_readout_commands.md). -/

namespace Sys2Proof.Machine

/-- The state with nothing but what the checksum may depend on. -/
def checksumPart (s : State) : State := { s with lovf := false, ill := false, resp := none, errLog := [], out := [] }

theorem checksumPart_afterWord (w : Word) (s : State) :
    checksumPart (afterWord w (checksumPart s)) = checksumPart (afterWord w s) := by
  unfold afterWord
  cases decode w with
  | illegal v => rfl
  | command i =>
    cases i with
    | feed b => by_cases h : s.cnt = maxLen <;> simp [checksumPart, h, acceptByte, raiseError, setErrorFlag]
    | _ => rfl

/-- The state and its checksum part take the same turn of the CORE. -/
theorem coreTurn_checksumPart (s : State) :
    ∃ t t', coreTurn s = .next t ∧ coreTurn (checksumPart s) = .next t' ∧ checksumPart t' = checksumPart t := by
  obtain ⟨hr, ht⟩ | ⟨hr, hc, ht⟩ | ⟨w, ws, hr, hc, ht⟩ := coreTurn_cases s
  · exact ⟨_, applyReset (checksumPart s), ht, if_pos hr, rfl⟩
  · exact ⟨_, checksumPart s, ht, by simp [coreTurn, checksumPart, hr, nextCommand, hc], rfl⟩
  · refine ⟨_, _, ht, ?_, checksumPart_afterWord w _⟩
    simp [coreTurn, checksumPart, hr, nextCommand, hc, perform_eq]

theorem step_checksumPart (s : State) :
    ∃ t t', step s = .next t ∧ step (checksumPart s) = .next t' ∧ checksumPart t' = checksumPart t := by
  cases hs : s.sched with
  | nil =>
    obtain ⟨t, t', ht, ht', heq⟩ := coreTurn_checksumPart s
    exact ⟨t, t', (step_eq_of_nil hs).trans ht, (step_eq_of_nil (s := checksumPart s) hs).trans ht', heq⟩
  | cons turn ts =>
    cases turn with
    | core =>
      obtain ⟨t, t', ht, ht', heq⟩ := coreTurn_checksumPart { s with sched := ts }
      exact ⟨t, t', (step_eq_of_core hs).trans ht, (step_eq_of_core (s := checksumPart s) hs).trans ht', heq⟩
    | deliver w => exact ⟨_, _, step_eq_of_deliver hs, step_eq_of_deliver (s := checksumPart s) hs, rfl⟩
    | take => exact ⟨_, _, step_eq_of_take hs, step_eq_of_take (s := checksumPart s) hs, rfl⟩
    | assertReset => exact ⟨_, _, step_eq_of_assertReset hs, step_eq_of_assertReset (s := checksumPart s) hs, rfl⟩

theorem checksumPart_stepped (s : State) : checksumPart (stepped s) = checksumPart (stepped (checksumPart s)) := by
  obtain ⟨t, t', ht, ht', heq⟩ := step_checksumPart s
  rw [stepped_of_step ht, stepped_of_step ht', heq]

/-- Two states with one checksum part have one after any steps. -/
theorem checksumPart_iterate (k : Nat) {s u : State} (h : checksumPart s = checksumPart u) :
    checksumPart (stepped^[k] s) = checksumPart (stepped^[k] u) := by
  induction k generalizing s u with
  | zero => exact h
  | succ k ih =>
    rw [Function.iterate_succ_apply, Function.iterate_succ_apply]
    exact ih (by rw [checksumPart_stepped s, checksumPart_stepped u, h])

/-- Settles O56: the two states have one checksum part, and ACC and CNT belong to it. -/
theorem flagsDoNotInfluenceTheChecksum : Obligations.FlagsDoNotInfluenceTheChecksum := by
  unfold Obligations.FlagsDoNotInfluenceTheChecksum
  intro s u k hacc hcnt htbl hcmds hsched hreset
  have hpart : checksumPart s = checksumPart u := by
    simp only [checksumPart, hacc, hcnt, htbl, hcmds, hsched, hreset]
  have hrun := checksumPart_iterate k hpart
  have haccs := congrArg State.acc hrun
  have hcnts := congrArg State.cnt hrun
  exact ⟨_, _, runSteps_eq_iterate k s, runSteps_eq_iterate k u, haccs, hcnts⟩

end Sys2Proof.Machine
end

section
/-! Several blocks (60_exceptions.md R106): a step of block `k` is that block's own step and nothing else. -/

namespace Sys2Proof.Machine

theorem replicaStep_eq_modify (k : Nat) (ss : List State) : replicaStep k ss = .next (ss.modify k stepped) := by
  induction ss generalizing k with
  | nil => cases k <;> rfl
  | cons s ss ih =>
    cases k with
    | zero => rw [replicaStep, step_eq_stepped, List.modify_zero_cons]
    | succ k => rw [replicaStep, ih, List.modify_succ_cons]

theorem replicaRun_cons (k : Nat) (ks : List Nat) (ss : List State) :
    replicaRun (k :: ks) ss = replicaRun ks (ss.modify k stepped) := by
  rw [replicaRun, replicaStep_eq_modify]

theorem sharesTable_iff (t : NibbleTable) (ss : List State) : sharesTable t ss = true ↔ ∀ s ∈ ss, s.tbl = t := by
  simp [sharesTable]

theorem sharesTable_modify {t : NibbleTable} {ss : List State} (h : sharesTable t ss = true) (k : Nat) :
    sharesTable t (ss.modify k stepped) = true := by
  rw [sharesTable_iff] at h ⊢
  intro u hu
  obtain ⟨j, hj⟩ := List.mem_iff_getElem?.1 hu
  rw [List.getElem?_modify] at hj
  obtain ⟨s, hs, rfl⟩ := Option.map_eq_some_iff.1 hj
  have htbl : s.tbl = t := h s (List.mem_of_getElem? hs)
  split
  · rw [stepped_tbl, htbl]
  · exact htbl

/-- Settles O57: a step of a block is `List.modify` at its place, and modifications at two places commute. -/
theorem blocksAreIndependent : Obligations.BlocksAreIndependent := by
  unfold Obligations.BlocksAreIndependent
  refine ⟨fun k ss => ⟨_, replicaStep_eq_modify k ss, List.length_modify .., ?others, ?own⟩, fun j k ss hjk => ?commute,
    fun t ks ss ss' hshares hrun => ?table⟩
  case others => exact fun j hjk => List.getElem?_modify_ne _ _ hjk.symm
  case own =>
    intro s hs
    exact ⟨_, step_eq_stepped s, by rw [List.getElem?_modify_eq, hs]; rfl⟩
  case commute => rw [replicaRun_cons, replicaRun_cons, replicaRun_cons, replicaRun_cons, List.modify_modify_ne _ _ _ hjk]
  case table =>
    induction ks generalizing ss with
    | nil =>
      cases hrun
      exact hshares
    | cons k ks ih =>
      rw [replicaRun_cons] at hrun
      exact ih _ (sharesTable_modify hshares k) hrun

end Sys2Proof.Machine
end

section
/-! The assembler's words (30_encoding.md R61, R62). -/

namespace Sys2Proof.Machine

/-- A text that assembles has a statement, or none, for each line, and its words are their expansions in order. -/
theorem assembleLines_ok {lines : List (List Nat)} {ws : List Word} (h : assembleLines lines = .ok ws) :
    ∃ sts : List (Option Stmt), lines.map parseLine = sts.map .ok ∧ ws = sts.flatMap fun st => (st.map expand).getD [] := by
  induction lines generalizing ws with
  | nil =>
    cases h
    exact ⟨[], rfl, rfl⟩
  | cons l lines ih =>
    obtain ⟨st, vs, hl, hvs, rfl⟩ := assembleLines_cons_ok h
    obtain ⟨sts, hsts, rfl⟩ := ih hvs
    exact ⟨st :: sts, by rw [List.map_cons, hl, hsts, List.map_cons], rfl⟩

theorem bareStmt_wf {s st : Stmt} {operand : List Nat} (hs : s.wf = true) (h : bareStmt s operand = .ok st) :
    st.wf = true := by
  obtain ⟨-, rfl⟩ := bareStmt_ok h
  exact hs

theorem parseStmt_wf {mnemonic operand : List Nat} {st : Stmt} (h : parseStmt mnemonic operand = .ok st) : st.wf = true := by
  unfold parseStmt at h
  split_ifs at h
  exacts [bareStmt_wf rfl h, (operandStmt_ok h).1, bareStmt_wf rfl h, bareStmt_wf rfl h, bareStmt_wf rfl h,
    (operandStmt_ok h).1, (operandStmt_ok h).1, (operandStmt_ok h).1]

theorem parseLine_wf {line : List Nat} {st : Stmt} (h : parseLine line = .ok (some st)) : st.wf = true := by
  unfold parseLine at h
  split at h
  · cases h
  · split at h
    · rename_i hst
      cases h
      exact parseStmt_wf hst
    · cases h

theorem expand_legal {st : Stmt} (hword : ∀ v, st ≠ .word v) {w : Word} (hw : w ∈ expand st) :
    ∃ i, decode w = .command i := by
  suffices ∃ i, encode i = w by
    obtain ⟨i, rfl⟩ := this
    exact ⟨i, decode_encode i⟩
  cases st with
  | word v => exact absurd rfl (hword v)
  | feeds s =>
    obtain ⟨b, -, rfl⟩ := List.mem_map.1 hw
    exact ⟨_, rfl⟩
  | crc s =>
    simp only [expand, List.mem_cons, List.mem_append, List.mem_map, List.not_mem_nil, or_false] at hw
    obtain rfl | ⟨b, -, rfl⟩ | rfl := hw
    all_goals exact ⟨_, rfl⟩
  | _ =>
    obtain rfl := List.mem_singleton.1 hw
    exact ⟨_, rfl⟩

theorem toNat_ofNat_of_word {v : Nat} (h : v ≤ 0xFFFF) : (BitVec.ofNat 16 v).toNat = v := by
  rw [BitVec.toNat_ofNat]
  omega

/-- Settles O59: a word comes from the expansion of a line's statement, which is well-formed because the line parsed. -/
theorem theAssemblerEmitsOnlyLegalWords : Obligations.TheAssemblerEmitsOnlyLegalWords := by
  unfold Obligations.TheAssemblerEmitsOnlyLegalWords
  refine ⟨fun text ws => assembleLines_ok, fun text ws h w hw => ?words, fun st _ hword w => expand_legal hword,
    fun line st => parseLine_wf, fun v hv => ⟨_, rfl, toNat_ofNat_of_word hv⟩⟩
  case words =>
    obtain ⟨sts, hsts, rfl⟩ := assembleLines_ok h
    obtain ⟨o, ho, hwo⟩ := List.mem_flatMap.1 hw
    obtain ⟨line, hline, hparse⟩ := List.mem_map.1 (hsts ▸ List.mem_map_of_mem ho)
    cases o with
    | none => simp at hwo
    | some st =>
      by_cases hword : ∃ v, st = .word v
      · obtain ⟨v, rfl⟩ := hword
        have hv : v ≤ 0xFFFF := by simpa [Stmt.wf] using parseLine_wf hparse
        obtain rfl : w = BitVec.ofNat 16 v := List.mem_singleton.1 hwo
        exact .inr ⟨line, hline, v, hparse, toNat_ofNat_of_word hv⟩
      · exact .inl (expand_legal (not_exists.1 hword) hwo)

end Sys2Proof.Machine
end
